-- ==== Sys2Proof/Word.lean ====
section
/-! DEFINITION. The word types of the machine (spec 00_scope R6, 30_encoding R101). -/

namespace Sys2Proof

/-- A 32-bit word: register contents, addresses, instruction words (R6). -/
abbrev Word := BitVec 32

/-- One byte of memory (R60). -/
abbrev Byte := BitVec 8

/-- A register number 0 to 31 (R20, R101). -/
abbrev RegIx := BitVec 5

/-- A VM id 0 to 7 (R370). -/
abbrev VmId := Fin 8

end Sys2Proof
end

