-- ==== Sys2Proof/Config.lean ====
section
/-! DEFINITION. The parameters of the hardware (spec 00_scope R5, 93_implementation_defined U1 to U22) and the
free values the spec leaves open. A `Config` is plain data, held unchanged in the machine's state, so that a
claim is for every configuration (log entry 1). -/

namespace Sys2Proof

/-- FP_F7: the funct7 code of each floating-point operation (R113, decision D4). -/
structure FpCodes where
  fadd : BitVec 7
  fsub : BitVec 7
  fmul : BitVec 7
  fdiv : BitVec 7
  fsqrt : BitVec 7
  fmin : BitVec 7
  fmax : BitVec 7
  feq : BitVec 7
  flt : BitVec 7
  fle : BitVec 7
  fcvtWS : BitVec 7
  fcvtSW : BitVec 7
  deriving DecidableEq, Repr

/-- The default map: consecutive codes from 0x01 in the document's listing order (R113). -/
def FpCodes.default : FpCodes where
  fadd := 0x01#7
  fsub := 0x02#7
  fmul := 0x03#7
  fdiv := 0x04#7
  fsqrt := 0x05#7
  fmin := 0x06#7
  fmax := 0x07#7
  feq := 0x08#7
  flt := 0x09#7
  fle := 0x0A#7
  fcvtWS := 0x0B#7
  fcvtSW := 0x0C#7

/-- The twelve codes in the order of R113. -/
def FpCodes.list (c : FpCodes) : List (BitVec 7) :=
  [c.fadd, c.fsub, c.fmul, c.fdiv, c.fsqrt, c.fmin, c.fmax, c.feq, c.flt, c.fle, c.fcvtWS, c.fcvtSW]

/-- R113: "the twelve codes are distinct, lie in 0x01..0x7F and are none of 0x00, 0x20". -/
def FpCodes.ok (c : FpCodes) : Bool :=
  decide (c.list.Nodup) && c.list.all (fun x => x != 0x00#7 && x != 0x20#7)

/-- `fp_round` and `cvt_s_w_round`: the rounding of inexact results (R5, U11). The spec's defaults are
`nearestEven` for arithmetic (R234) and `towardZero` for FCVT.S.W (R247). -/
inductive RoundMode where
  | nearestEven
  | towardZero
  | down
  | up
  | nearestAway
  deriving DecidableEq, Repr

/-- Which zero FMIN or FMAX answers of two zeros with different signs (R248): the one of that sign, or the first or second
operand. Which alternatives there are is a DESIGN CHOICE (log entry 9). -/
inductive ZeroPick where
  | negative
  | positive
  | first
  | second
  deriving DecidableEq, Repr

/-- The configuration of R5 and of the parameters U1, U6, U9 to U11, U15 and R248. -/
structure Config where
  /-- N_UNITS, execution units dispatched per tick (R5, D16) -/
  nUnits : Nat
  /-- LOCK_RETRIES, failed lock attempts a unit tolerates per acquisition (R304) -/
  lockRetries : Nat
  /-- HALT_PC, the halt sentinel (R305, D15) -/
  haltPc : Word
  /-- MEM_SIZE in bytes (R60, D12) -/
  memSize : Nat
  /-- MMIO_BASE, first byte of the display window (R69, D14) -/
  mmioBase : Nat
  fbWidth : Nat
  fbHeight : Nat
  /-- CONSOLE_CAP in bytes (R368, D21) -/
  consoleCap : Nat
  /-- HOT_THRESHOLD (R373, D25) -/
  hotThreshold : Nat
  /-- MAX_REGIONS (R340, D26) -/
  maxRegions : Nat
  /-- ADDR_LIMIT, the validator's global bound (R344) -/
  addrLimit : Nat
  /-- IMAGE_BASE (R432, D33) -/
  imageBase : Nat
  /-- FP_F7 (R113) -/
  fpCodes : FpCodes
  /-- fp_round (R234, U11) -/
  fpRound : RoundMode
  /-- cvt_s_w_round (R247, U11) -/
  cvtRound : RoundMode
  /-- fp_flush_subnormals (U9) -/
  flushSubnormals : Bool
  /-- QNAN, the NaN the arithmetic generates (R233, U10) -/
  qnan : Word
  /-- the zero FMIN answers of two zeros; by default -0 (R241 case 3, R248, D8) -/
  fminZero : ZeroPick
  /-- the zero FMAX answers of two zeros; by default +0 (R242 case 3, R248, D8) -/
  fmaxZero : ZeroPick
  /-- allow_misaligned (U6) -/
  allowMisaligned : Bool
  /-- kernel_check_kinds: false is the default "writes only", true checks reads and executes too (U15) -/
  kernelCheckAll : Bool
  /-- strict_decode (U1): true is the spec's policy, words of no row are NOP.UNKNOWN. With false the words whose decoding
  depends on the policy are refused (log entry 10) -/
  strictDecode : Bool
  deriving DecidableEq, Repr

namespace Config

/-- The configuration after reset: the defaults of R5 where it gives one; for the parameters R5 leaves OPEN the
values of the spec's test configuration CFG-T, and 16 regions (DESIGN CHOICE, log entry 1). -/
def default : Config where
  nUnits := 16
  lockRetries := 1000
  haltPc := 0xFFFFFFFC#32
  memSize := 0x10000
  mmioBase := 0x8000
  fbWidth := 16
  fbHeight := 16
  consoleCap := 256
  hotThreshold := 10000
  maxRegions := 16
  addrLimit := 0x10000
  imageBase := 0
  fpCodes := FpCodes.default
  fpRound := .nearestEven
  cvtRound := .towardZero
  flushSubnormals := false
  qnan := 0x7FC00000#32
  fminZero := .negative
  fmaxZero := .positive
  allowMisaligned := true
  kernelCheckAll := false
  strictDecode := true

/-- Bytes of the display window (R69). -/
def windowSize (c : Config) : Nat := 4 * c.fbWidth * c.fbHeight

/-- The constraints the spec puts on the parameters: R5 (N_UNITS, MEM_SIZE, MMIO_BASE), R69 (the window ends at
or below 2^32), R5 with D15 (HALT_PC is no multiple of 4, or outside every fetchable address), R113 (the codes),
D7 (QNAN is a quiet NaN). R5 gives FB_WIDTH and FB_HEIGHT no lower bound, so 0 is admitted (DESIGN CHOICE, log entry
21): the window is then empty. Nor does it bound ADDR_LIMIT, so any number is admitted (DESIGN CHOICE, log entry 24). -/
def ok (c : Config) : Bool :=
  decide (1 ≤ c.nUnits)
    && decide (c.memSize % 4 = 0) && decide (128 ≤ c.memSize) && decide (c.memSize ≤ 2 ^ 32)
    && decide (c.mmioBase % 4 = 0) && decide (128 ≤ c.mmioBase)
    && decide (c.mmioBase + c.windowSize ≤ 2 ^ 32)
    && (decide (c.haltPc.toNat % 4 ≠ 0) || decide (c.memSize < c.haltPc.toNat + 4)
        || (decide (c.mmioBase ≤ c.haltPc.toNat) && decide (c.haltPc.toNat < c.mmioBase + c.windowSize)))
    && c.fpCodes.ok
    && decide (c.qnan.extractLsb' 22 9 = 0x1FF#9)

/-- FREE VALUE. The n-th unspecified 32-bit value the machine draws: a load from the display window (R72), an
out-of-range FCVT.W.S (R246). It has no body, so nothing can be proved of it (log entry 6). -/
opaque freeWord : Nat → Word

/-- FREE VALUE. The n-th free choice of the interleaving: which unit moves (R325), in which order the bytes of a
misaligned access go, whether a sub-word store is a read-modify-write (R68). It has no body (log entry 7). -/
opaque schedule : Nat → Nat

end Config

end Sys2Proof
end

