-- ==== Sys2Proof/Machine/State.lean ====
section
/-! DEFINITION. The machine's state, all of it plain data (spec 10_state), and the state after reset (R47, R430).
INVENTORY.md lists every field with its rule and its reset value. -/

namespace Sys2Proof.Machine

/-- Linear memory as (address, byte) pairs, addresses strictly rising, no entry equal to what an unlisted address
reads as, which is 0 (log entry 2). -/
abbrev Memory := List Host.Cell

/-- VMStatus (R34); encodings 0, 1, 2 in this order. -/
inductive VmStatus where
  | running
  | waitingSyscall
  | halted
  deriving DecidableEq, Repr

/-- The status bitmask of CPUState (R31): bit 0, bit 1, bit 2. -/
structure CpuStatus where
  running : Bool
  halted : Bool
  error : Bool
  deriving DecidableEq, Repr

/-- CPUState (R31). `pc` is the one home of the shared program counter PC (R25) and of the published pc (R319,
log entry 4). -/
structure CpuState where
  pc : Word
  status : CpuStatus
  instrCount : Word
  cycleCount : Word
  deriving DecidableEq, Repr

/-- SyscallEntry: nine 32-bit words, the padding left out (R364). -/
structure SyscallEntry where
  vmId : Word
  number : Word
  arg0 : Word
  arg1 : Word
  arg2 : Word
  arg3 : Word
  arg4 : Word
  arg5 : Word
  result : Word
  deriving DecidableEq, Repr

/-- The words of a SyscallEntry, each one write of its own (R326, R364). -/
inductive SyscallField where
  | vmId
  | number
  | arg0
  | arg1
  | arg2
  | arg3
  | arg4
  | arg5
  | result
  deriving DecidableEq, Repr

/-- ProfilerEntry (R371). -/
structure ProfEntry where
  address : Word
  count : Word
  deriving DecidableEq, Repr

/-- One transaction on the framebuffer port (R70). -/
structure PixelStore where
  col : Nat
  row : Nat
  value : Word
  deriving DecidableEq, Repr

/-- Where a unit stands in its loop (R313): the line it performs next, or that it has left the loop. -/
inductive Phase where
  | top       -- the test of R303
  | acquire   -- an attempt at the lock, R304
  | locked    -- holding the lock: the sentinel test R305 or the claim R306
  | fetch     -- the fetch of R307
  | run       -- the next access of the instruction, R307
  | commit    -- R309
  | count     -- R310
  | profile   -- R311
  | guard     -- R312, then R308
  | left
  deriving DecidableEq, Repr

/-- What a unit has done of an access that is not atomic (R68). Offsets count bytes from the access's address. -/
inductive Part where
  /-- no such access is in progress -/
  | none
  /-- a misaligned load: the bytes still to read, and those read -/
  | loading (todo : List Nat) (done : List (Nat × Byte))
  /-- a store: the pieces (offset, width) still to write -/
  | storing (todo : List (Nat × Nat))
  /-- a store of which one piece is a read-modify-write whose word has been read -/
  | merging (todo : List (Nat × Nat)) (off width : Nat) (old : Word)
  deriving DecidableEq, Repr

/-- The private state of an execution unit (R41), with the instruction it executes. -/
structure ExecUnit where
  phase : Phase
  /-- failed lock attempts of the current acquisition -/
  retries : Nat
  /-- the claimed address -/
  ia : Word
  /-- the fetched word -/
  word : Word
  /-- the answers of the accesses the instruction has made, oldest first (0 for a write) -/
  got : List Word
  part : Part
  /-- the computed next-address (R190) -/
  next : Word
  /-- the instruction stops its unit (R308) -/
  stop : Bool
  deriving DecidableEq, Repr

/-- A unit at tick start. The values of ia, word and next before the first claim, which nothing reads, are 0 (R41 gives none;
DESIGN CHOICE, log entry 3). -/
def ExecUnit.fresh : ExecUnit :=
  { phase := .top, retries := 0, ia := 0#32, word := 0#32, got := [], part := .none, next := 0#32, stop := false }

/-- Per-tick scheduler state of a VM (R37 to R41). -/
structure Tick where
  lock : Bool
  haltFlag : Bool
  abortFlag : Bool
  executed : Nat
  budget : Word
  resumePc : Word
  units : List ExecUnit
  /-- the free choice of the unit that moves next, taken modulo the number of units still in their loop
  (R325, log entry 7) -/
  turn : Nat
  deriving DecidableEq, Repr

/-- One VM (R370). -/
structure VM where
  mem : Memory
  cpu : CpuState
  vmStatus : VmStatus
  ring : Vector SyscallEntry 16
  ringCtr : Word
  console : List Byte
  consoleLen : Nat
  prof : Vector ProfEntry 256
  /-- the pixel transactions issued, oldest first (R70, log entry 13) -/
  pixels : List PixelStore
  tick : Tick
  deriving DecidableEq, Repr

/-- The flags of a protected region (R341). -/
structure RegionFlags where
  readOnly : Bool
  executable : Bool
  isolated : Bool
  kernel : Bool
  dmaCapable : Bool
  deriving DecidableEq, Repr

/-- ProtectedRegion (R340). -/
structure Region where
  origin : Word
  extent : Word
  flags : RegionFlags
  owner : Word
  deriving DecidableEq, Repr

/-- The validator's counters (R342). -/
structure ProtCounters where
  nChecks : Word
  nAllowed : Word
  nReadOnly : Word
  nOutOfBounds : Word
  nIsolation : Word
  deriving DecidableEq, Repr

/-- The kind of a protection request (R343); encodings 0, 1, 2. -/
inductive AccessKind where
  | read
  | write
  | execute
  deriving DecidableEq, Repr

/-- A protection request (R343). -/
structure ProtRequest where
  address : Word
  kind : AccessKind
  requester : Word
  size : Word
  deriving DecidableEq, Repr

/-- The result of a check (R343); encodings 0, 1, 2, 3. -/
inductive ProtResult where
  | allowed
  | readOnly
  | outOfBounds
  | isolation
  deriving DecidableEq, Repr

/-- The width of a memory access (R68). -/
inductive Size where
  | byte
  | half
  | word
  deriving DecidableEq, Repr

/-- The host's operations (R361), and teardown (R377). HostRead and HostWrite take 1, 2 or 4 bytes at any address of memory
(R83 and R361 give no widths; DESIGN CHOICE, log entry 20). -/
inductive HostOp where
  | createVM (v : VmId)
  | teardown (v : VmId)
  | loadImage (v : VmId) (bytes : List Byte)
  | tick (v : VmId) (budget resumePc : Word)
  | snapshot (v : VmId)
  | readVmStatus (v : VmId)
  | setVmStatus (v : VmId) (st : VmStatus)
  | readRing (v : VmId) (slot : Fin 16)
  | readRingCtr (v : VmId)
  | writeResult (v : VmId) (slot : Fin 16) (w : Word)
  | drainConsole (v : VmId)
  | readProf (v : VmId) (slot : Fin 256)
  | resetProf (v : VmId)
  | hostRead (v : VmId) (addr : Word) (n : Size)
  | hostWrite (v : VmId) (addr : Word) (n : Size) (w : Word)
  | setRegions (table : List Region)
  /-- the stored table, its unchecked flags included, returned to the host (R349, log entry 18) -/
  | readRegions
  | check (req : ProtRequest)
  | readCounters
  deriving DecidableEq, Repr

/-- What a reading operation of the host returns (R361). -/
inductive HostReply where
  | cpuState (c : CpuState)
  | vmStatus (st : VmStatus)
  | ringEntry (e : SyscallEntry)
  | ringCtr (c : Word)
  | consoleBytes (bytes : List Byte)
  | profEntry (e : ProfEntry) (hot : Bool)
  | value (w : Word)
  | checked (r : ProtResult)
  | regions (table : List Region)
  | counters (c : ProtCounters)
  deriving DecidableEq, Repr

/-- The whole machine (R3, R370). -/
structure State where
  /-- the parameters, constant (R5, log entry 1) -/
  cfg : Config
  vms : Vector VM 8
  /-- a tick is in progress -/
  running : Bool
  /-- the VM of the tick in progress (the tick parameter `vm`, R300) -/
  cur : VmId
  regions : List Region
  counters : ProtCounters
  /-- the host's operations not yet performed, oldest first (log entry 12) -/
  hostIn : List HostOp
  /-- what the host's reading operations returned, oldest first (log entry 12) -/
  hostOut : List HostReply
  /-- numbers the draws of unspecified values (log entry 6) -/
  free : Nat
  /-- numbers the free choices of the interleaving (log entry 7) -/
  sched : Nat
  deriving DecidableEq, Repr

/-- The machine has no further step. The hardware reports no fault (R400): this is a stuck state of the model. -/
inductive Fault where
  /-- While a tick runs the PC is neither HALT_PC nor a multiple of 4: what follows is not described and the model is stuck
  (R202, R403, U5). Raised by a step of a tick. Safe: nothing is proved of what follows. -/
  | misalignedPc
  deriving DecidableEq, Repr

/-- The model refuses: the spec gives the situation no meaning. Every one is safe: nothing is proved of what
follows. -/
inductive Refusal where
  /-- An instruction with no meaning yet. Raised by no arm of exec as it stands. Safe. -/
  | notModelled (mnemonic : String)
  /-- A load, store, fetch or console read with a byte at or beyond MEM_SIZE (R65, U3). Safe. -/
  | outOfRange
  /-- A byte, halfword, misaligned or straddling store that touches the display window (R64 case 3, R72, U4). Safe. -/
  | windowStore
  /-- A fetch that touches the display window (R72, R79, U4). Safe. -/
  | windowFetch
  /-- A fetched word whose decoding depends on the decoder's policy, when the parameter strict_decode is off (U1). Safe. -/
  | looseDecode
  /-- A misaligned data access when the parameter allow_misaligned is off (U6). Safe. -/
  | misalignedAccess
  /-- A tick whose resume PC is neither a multiple of 4 nor HALT_PC (R301, U5). Safe. -/
  | badResumePc
  /-- An image that does not fit below MEM_SIZE (R432), or a host access outside memory (R83). Safe. -/
  | hostOutOfRange
  /-- A region table longer than MAX_REGIONS (R340). Safe. -/
  | tooManyRegions
  deriving DecidableEq, Repr

/-- A SyscallEntry never written (log entry 3). -/
def SyscallEntry.zero : SyscallEntry := ⟨0#32, 0#32, 0#32, 0#32, 0#32, 0#32, 0#32, 0#32, 0#32⟩

/-- A profiler slot after reset (R44). -/
def ProfEntry.zero : ProfEntry := ⟨0#32, 0#32⟩

/-- The per-tick state of a VM that has had no tick (R430; budget and resume_pc log entry 3). -/
def Tick.reset : Tick :=
  { lock := false, haltFlag := false, abortFlag := false, executed := 0, budget := 0#32, resumePc := 0#32,
    units := [], turn := 0 }

/-- CPUState after VM creation (R33; pc log entry 3). -/
def CpuState.reset : CpuState :=
  { pc := 0#32, status := ⟨true, false, false⟩, instrCount := 0#32, cycleCount := 0#32 }

/-- A VM after CreateVM (R47, R430; the unspecified parts log entries 2 and 3). -/
def VM.reset (consoleCap : Nat) : VM :=
  { mem := [], cpu := CpuState.reset, vmStatus := .running, ring := Vector.replicate 16 SyscallEntry.zero,
    ringCtr := 0#32, console := List.replicate consoleCap 0#8, consoleLen := 0,
    prof := Vector.replicate 256 ProfEntry.zero, pixels := [], tick := Tick.reset }

/-- The machine right after reset: every VM created (the spec gives a VM no state before its CreateVM; DESIGN CHOICE, log
entry 23), no tick in progress, no host operation pending, the protection
table empty (R47, R351, R430). -/
def State.reset : State :=
  { cfg := Config.default, vms := Vector.replicate 8 (VM.reset Config.default.consoleCap), running := false, cur := 0,
    regions := [], counters := ⟨0#32, 0#32, 0#32, 0#32, 0#32⟩, hostIn := [], hostOut := [], free := 0, sched := 0 }

end Sys2Proof.Machine
end

