-- ==== Sys2Proof/Machine/Protection.lean ====
section
/-! DEFINITION. The memory-protection validator (R340 to R352). It is not in the core's access path (R350): only the
host's `check` operation uses it. -/

namespace Sys2Proof.Machine

/-- The flags as the spec's bit mask (R341). -/
def RegionFlags.toMask (f : RegionFlags) : BitVec 5 :=
  BitVec.ofBool f.dmaCapable ++ BitVec.ofBool f.kernel ++ BitVec.ofBool f.isolated ++ BitVec.ofBool f.executable
    ++ BitVec.ofBool f.readOnly

/-- R343: READ 0, WRITE 1, EXECUTE 2. -/
def AccessKind.code : AccessKind → Nat
  | .read => 0
  | .write => 1
  | .execute => 2

/-- R343: ALLOWED 0, READ_ONLY 1, OUT_OF_BOUNDS 2, ISOLATION 3. -/
def ProtResult.code : ProtResult → Nat
  | .allowed => 0
  | .readOnly => 1
  | .outOfBounds => 2
  | .isolation => 3

/-- The request and the region share at least one byte (R345); the sums do not wrap. -/
def Region.matches (r : Region) (q : ProtRequest) : Bool :=
  decide (0 < q.size.toNat) && decide (0 < r.extent.toNat)
    && decide (q.address.toNat < r.origin.toNat + r.extent.toNat)
    && decide (r.origin.toNat < q.address.toNat + q.size.toNat)

/-- Check 1: the request goes past ADDR_LIMIT (R344). -/
def outOfBounds (cfg : Config) (q : ProtRequest) : Bool :=
  decide (cfg.addrLimit < q.address.toNat + q.size.toNat)

/-- A region rejects the request by write permission: read-only regions reject writes; kernel regions reject non-zero
requesters, for writes only unless `kernel_check_kinds` says all kinds (R346, U15). -/
def Region.deniesWrite (cfg : Config) (r : Region) (q : ProtRequest) : Bool :=
  r.matches q
    && ((decide (q.kind = .write) && r.flags.readOnly)
      || ((decide (q.kind = .write) || cfg.kernelCheckAll) && r.flags.kernel && decide (q.requester ≠ 0#32)))

/-- A region rejects the request by isolation, whatever its kind (R347). -/
def Region.deniesRequester (r : Region) (q : ProtRequest) : Bool :=
  r.matches q && r.flags.isolated && decide (q.requester ≠ r.owner)

/-- The class of a request: bounds, then write permission, then isolation, each over all matching regions (R348). -/
def classify (cfg : Config) (regions : List Region) (q : ProtRequest) : ProtResult :=
  if outOfBounds cfg q then .outOfBounds
  else if regions.any (fun r => r.deniesWrite cfg q) then .readOnly
  else if regions.any (fun r => r.deniesRequester q) then .isolation
  else .allowed

/-- The counters after a check with this result (R342, R348). -/
def ProtCounters.count (c : ProtCounters) (r : ProtResult) : ProtCounters :=
  let c := { c with nChecks := c.nChecks + 1#32 }
  match r with
  | .allowed => { c with nAllowed := c.nAllowed + 1#32 }
  | .readOnly => { c with nReadOnly := c.nReadOnly + 1#32 }
  | .outOfBounds => { c with nOutOfBounds := c.nOutOfBounds + 1#32 }
  | .isolation => { c with nIsolation := c.nIsolation + 1#32 }

end Sys2Proof.Machine
end

