-- ==== Sys2Proof/Syntax.lean ====
section
/-! DEFINITION. The instructions: one constructor per row of spec/opcode_table.json (60 rows). Bits of a word
that the spec says are ignored (R111 for the shifts, R112 for funct3 and rs2 of floating point, R280 for FENCE)
are kept as operands that no meaning reads, so that no bit of an encoding is lost (log entry 11). -/

namespace Sys2Proof

/-- RV32I+GOSF (R1, R109 to R118). -/
inductive Instr where
  -- upper immediate (R144, R145)
  | lui (rd : RegIx) (imm : BitVec 20)
  | auipc (rd : RegIx) (imm : BitVec 20)
  -- jumps (R193, R194); the offset is the 21-bit byte offset with bit 0 clear (R107)
  | jal (rd : RegIx) (off : BitVec 21)
  | jalr (rd rs1 : RegIx) (imm : BitVec 12)
  -- branches (R196 to R201); the offset is the 13-bit byte offset with bit 0 clear (R105)
  | beq (rs1 rs2 : RegIx) (off : BitVec 13)
  | bne (rs1 rs2 : RegIx) (off : BitVec 13)
  | blt (rs1 rs2 : RegIx) (off : BitVec 13)
  | bge (rs1 rs2 : RegIx) (off : BitVec 13)
  | bltu (rs1 rs2 : RegIx) (off : BitVec 13)
  | bgeu (rs1 rs2 : RegIx) (off : BitVec 13)
  -- loads (R213 to R217)
  | lb (rd rs1 : RegIx) (imm : BitVec 12)
  | lh (rd rs1 : RegIx) (imm : BitVec 12)
  | lw (rd rs1 : RegIx) (imm : BitVec 12)
  | lbu (rd rs1 : RegIx) (imm : BitVec 12)
  | lhu (rd rs1 : RegIx) (imm : BitVec 12)
  -- stores (R218 to R220)
  | sb (rs2 rs1 : RegIx) (imm : BitVec 12)
  | sh (rs2 rs1 : RegIx) (imm : BitVec 12)
  | sw (rs2 rs1 : RegIx) (imm : BitVec 12)
  -- OP_IMM (R146 to R154); hi holds the ignored immediate bits 31:25, or {31, 29:25} for SRLI and SRAI
  | addi (rd rs1 : RegIx) (imm : BitVec 12)
  | slti (rd rs1 : RegIx) (imm : BitVec 12)
  | sltiu (rd rs1 : RegIx) (imm : BitVec 12)
  | xori (rd rs1 : RegIx) (imm : BitVec 12)
  | ori (rd rs1 : RegIx) (imm : BitVec 12)
  | andi (rd rs1 : RegIx) (imm : BitVec 12)
  | slli (rd rs1 : RegIx) (shamt : BitVec 5) (hi : BitVec 7)
  | srli (rd rs1 : RegIx) (shamt : BitVec 5) (hi : BitVec 6)
  | srai (rd rs1 : RegIx) (shamt : BitVec 5) (hi : BitVec 6)
  -- OP, integer (R155 to R164)
  | add (rd rs1 rs2 : RegIx)
  | sub (rd rs1 rs2 : RegIx)
  | sll (rd rs1 rs2 : RegIx)
  | slt (rd rs1 rs2 : RegIx)
  | sltu (rd rs1 rs2 : RegIx)
  | xor (rd rs1 rs2 : RegIx)
  | srl (rd rs1 rs2 : RegIx)
  | sra (rd rs1 rs2 : RegIx)
  | or (rd rs1 rs2 : RegIx)
  | and (rd rs1 rs2 : RegIx)
  -- OP, floating point (R236 to R247); f3 is the ignored funct3, and rs2 is ignored by the one-operand forms
  | fadd (rd rs1 rs2 : RegIx) (f3 : BitVec 3)
  | fsub (rd rs1 rs2 : RegIx) (f3 : BitVec 3)
  | fmul (rd rs1 rs2 : RegIx) (f3 : BitVec 3)
  | fdiv (rd rs1 rs2 : RegIx) (f3 : BitVec 3)
  | fsqrt (rd rs1 rs2 : RegIx) (f3 : BitVec 3)
  | fmin (rd rs1 rs2 : RegIx) (f3 : BitVec 3)
  | fmax (rd rs1 rs2 : RegIx) (f3 : BitVec 3)
  | feq (rd rs1 rs2 : RegIx) (f3 : BitVec 3)
  | flt (rd rs1 rs2 : RegIx) (f3 : BitVec 3)
  | fle (rd rs1 rs2 : RegIx) (f3 : BitVec 3)
  | fcvtWS (rd rs1 rs2 : RegIx) (f3 : BitVec 3)
  | fcvtSW (rd rs1 rs2 : RegIx) (f3 : BitVec 3)
  -- MISC_MEM (R280, R281); all operands ignored
  | fence (rd rs1 : RegIx) (imm : BitVec 12)
  | fenceI (rd rs1 : RegIx) (imm : BitVec 12)
  -- SYSTEM (R282, R285, R287 to R293)
  | ecall
  | ebreak
  | csrrw (rd rs1 : RegIx) (csr : BitVec 12)
  | csrrs (rd rs1 : RegIx) (csr : BitVec 12)
  | csrrc (rd rs1 : RegIx) (csr : BitVec 12)
  | csrrwi (rd uimm : RegIx) (csr : BitVec 12)
  | csrrsi (rd uimm : RegIx) (csr : BitVec 12)
  | csrrci (rd uimm : RegIx) (csr : BitVec 12)
  -- NOP.UNKNOWN (R290): a word that no other row takes
  | unknown (w : Word)
  deriving DecidableEq, Repr

end Sys2Proof
end

