-- ==== Sys2Proof/Decode.lean ====
section
/-! DEFINITION. The decoder (R100 to R118), total on words and on bytes, and the encoder written from the same
formats (R102 to R107). -/

namespace Sys2Proof

/-! ### Fields (R101) and immediates (R103 to R107) -/

namespace Fields
/-- inst[6:0] -/
def opcode (w : Word) : BitVec 7 := w.extractLsb' 0 7
/-- inst[11:7] -/
def rd (w : Word) : RegIx := w.extractLsb' 7 5
/-- inst[14:12] -/
def funct3 (w : Word) : BitVec 3 := w.extractLsb' 12 3
/-- inst[19:15] -/
def rs1 (w : Word) : RegIx := w.extractLsb' 15 5
/-- inst[24:20] -/
def rs2 (w : Word) : RegIx := w.extractLsb' 20 5
/-- inst[31:25] -/
def funct7 (w : Word) : BitVec 7 := w.extractLsb' 25 7
/-- inst[31:20], the raw I immediate (R103); also the CSR number (R286) -/
def imm12I (w : Word) : BitVec 12 := w.extractLsb' 20 12
/-- inst[31:25], inst[11:7], the raw S immediate (R104) -/
def imm12S (w : Word) : BitVec 12 := w.extractLsb' 25 7 ++ w.extractLsb' 7 5
/-- inst[31], inst[7], inst[30:25], inst[11:8], 0: the raw B immediate (R105) -/
def imm13B (w : Word) : BitVec 13 :=
  w.extractLsb' 31 1 ++ w.extractLsb' 7 1 ++ w.extractLsb' 25 6 ++ w.extractLsb' 8 4 ++ 0#1
/-- inst[31:12], the U immediate field (R106) -/
def imm20U (w : Word) : BitVec 20 := w.extractLsb' 12 20
/-- inst[31], inst[19:12], inst[20], inst[30:21], 0: the raw J immediate (R107) -/
def imm21J (w : Word) : BitVec 21 :=
  w.extractLsb' 31 1 ++ w.extractLsb' 12 8 ++ w.extractLsb' 20 1 ++ w.extractLsb' 21 10 ++ 0#1
/-- inst[30], bit 10 of the I immediate and bit 5 of funct7 -/
def bit30 (w : Word) : BitVec 1 := w.extractLsb' 30 1
/-- inst[31], inst[29:25]: the bits SRLI and SRAI ignore (R111) -/
def shiftHi (w : Word) : BitVec 6 := w.extractLsb' 31 1 ++ w.extractLsb' 25 5
end Fields

open Fields

/-! ### The decoder (R110) -/

/-- BRANCH by funct3 (R114). -/
def decodeBranch (w : Word) : Instr :=
  if funct3 w = 0#3 then .beq (rs1 w) (rs2 w) (imm13B w)
  else if funct3 w = 1#3 then .bne (rs1 w) (rs2 w) (imm13B w)
  else if funct3 w = 4#3 then .blt (rs1 w) (rs2 w) (imm13B w)
  else if funct3 w = 5#3 then .bge (rs1 w) (rs2 w) (imm13B w)
  else if funct3 w = 6#3 then .bltu (rs1 w) (rs2 w) (imm13B w)
  else if funct3 w = 7#3 then .bgeu (rs1 w) (rs2 w) (imm13B w)
  else .unknown w

/-- LOAD by funct3 (R114). -/
def decodeLoad (w : Word) : Instr :=
  if funct3 w = 0#3 then .lb (rd w) (rs1 w) (imm12I w)
  else if funct3 w = 1#3 then .lh (rd w) (rs1 w) (imm12I w)
  else if funct3 w = 2#3 then .lw (rd w) (rs1 w) (imm12I w)
  else if funct3 w = 4#3 then .lbu (rd w) (rs1 w) (imm12I w)
  else if funct3 w = 5#3 then .lhu (rd w) (rs1 w) (imm12I w)
  else .unknown w

/-- STORE by funct3 (R114). -/
def decodeStore (w : Word) : Instr :=
  if funct3 w = 0#3 then .sb (rs2 w) (rs1 w) (imm12S w)
  else if funct3 w = 1#3 then .sh (rs2 w) (rs1 w) (imm12S w)
  else if funct3 w = 2#3 then .sw (rs2 w) (rs1 w) (imm12S w)
  else .unknown w

/-- OP_IMM by funct3; SRAI and SRLI by bit 10 of the immediate only (R111). Every word has a member. -/
def decodeOpImm (w : Word) : Instr :=
  if funct3 w = 0#3 then .addi (rd w) (rs1 w) (imm12I w)
  else if funct3 w = 1#3 then .slli (rd w) (rs1 w) (rs2 w) (funct7 w)
  else if funct3 w = 2#3 then .slti (rd w) (rs1 w) (imm12I w)
  else if funct3 w = 3#3 then .sltiu (rd w) (rs1 w) (imm12I w)
  else if funct3 w = 4#3 then .xori (rd w) (rs1 w) (imm12I w)
  else if funct3 w = 5#3 then
    if bit30 w = 0#1 then .srli (rd w) (rs1 w) (rs2 w) (shiftHi w)
    else .srai (rd w) (rs1 w) (rs2 w) (shiftHi w)
  else if funct3 w = 6#3 then .ori (rd w) (rs1 w) (imm12I w)
  else .andi (rd w) (rs1 w) (imm12I w)

/-- OP with funct7 = 0x00 (R112, 2). Every funct3 has a member. -/
def decodeOpBase (w : Word) : Instr :=
  if funct3 w = 0#3 then .add (rd w) (rs1 w) (rs2 w)
  else if funct3 w = 1#3 then .sll (rd w) (rs1 w) (rs2 w)
  else if funct3 w = 2#3 then .slt (rd w) (rs1 w) (rs2 w)
  else if funct3 w = 3#3 then .sltu (rd w) (rs1 w) (rs2 w)
  else if funct3 w = 4#3 then .xor (rd w) (rs1 w) (rs2 w)
  else if funct3 w = 5#3 then .srl (rd w) (rs1 w) (rs2 w)
  else if funct3 w = 6#3 then .or (rd w) (rs1 w) (rs2 w)
  else .and (rd w) (rs1 w) (rs2 w)

/-- OP: the floating-point codes first, then funct7 = 0x00, then 0x20, else the no-op (R112, R113). -/
def decodeOp (c : FpCodes) (w : Word) : Instr :=
  if funct7 w = c.fadd then .fadd (rd w) (rs1 w) (rs2 w) (funct3 w)
  else if funct7 w = c.fsub then .fsub (rd w) (rs1 w) (rs2 w) (funct3 w)
  else if funct7 w = c.fmul then .fmul (rd w) (rs1 w) (rs2 w) (funct3 w)
  else if funct7 w = c.fdiv then .fdiv (rd w) (rs1 w) (rs2 w) (funct3 w)
  else if funct7 w = c.fsqrt then .fsqrt (rd w) (rs1 w) (rs2 w) (funct3 w)
  else if funct7 w = c.fmin then .fmin (rd w) (rs1 w) (rs2 w) (funct3 w)
  else if funct7 w = c.fmax then .fmax (rd w) (rs1 w) (rs2 w) (funct3 w)
  else if funct7 w = c.feq then .feq (rd w) (rs1 w) (rs2 w) (funct3 w)
  else if funct7 w = c.flt then .flt (rd w) (rs1 w) (rs2 w) (funct3 w)
  else if funct7 w = c.fle then .fle (rd w) (rs1 w) (rs2 w) (funct3 w)
  else if funct7 w = c.fcvtWS then .fcvtWS (rd w) (rs1 w) (rs2 w) (funct3 w)
  else if funct7 w = c.fcvtSW then .fcvtSW (rd w) (rs1 w) (rs2 w) (funct3 w)
  else if funct7 w = 0x00#7 then decodeOpBase w
  else if funct7 w = 0x20#7 then
    if funct3 w = 0#3 then .sub (rd w) (rs1 w) (rs2 w)
    else if funct3 w = 5#3 then .sra (rd w) (rs1 w) (rs2 w)
    else .unknown w
  else .unknown w

/-- MISC_MEM (R116). -/
def decodeMiscMem (w : Word) : Instr :=
  if funct3 w = 0#3 then .fence (rd w) (rs1 w) (imm12I w)
  else if funct3 w = 1#3 then .fenceI (rd w) (rs1 w) (imm12I w)
  else .unknown w

/-- SYSTEM: ECALL and EBREAK by all 32 bits, the CSR forms by funct3, the rest the no-op (R117). -/
def decodeSystem (w : Word) : Instr :=
  if w = 0x00000073#32 then .ecall
  else if w = 0x00100073#32 then .ebreak
  else if funct3 w = 1#3 then .csrrw (rd w) (rs1 w) (imm12I w)
  else if funct3 w = 2#3 then .csrrs (rd w) (rs1 w) (imm12I w)
  else if funct3 w = 3#3 then .csrrc (rd w) (rs1 w) (imm12I w)
  else if funct3 w = 5#3 then .csrrwi (rd w) (rs1 w) (imm12I w)
  else if funct3 w = 6#3 then .csrrsi (rd w) (rs1 w) (imm12I w)
  else if funct3 w = 7#3 then .csrrci (rd w) (rs1 w) (imm12I w)
  else .unknown w

/-- The decoder: total, every 32-bit word is exactly one instruction (R109, R110). -/
def decodeWord (c : FpCodes) (w : Word) : Instr :=
  if opcode w = 0x37#7 then .lui (rd w) (imm20U w)
  else if opcode w = 0x17#7 then .auipc (rd w) (imm20U w)
  else if opcode w = 0x6F#7 then .jal (rd w) (imm21J w)
  else if opcode w = 0x67#7 then
    if funct3 w = 0#3 then .jalr (rd w) (rs1 w) (imm12I w) else .unknown w
  else if opcode w = 0x63#7 then decodeBranch w
  else if opcode w = 0x03#7 then decodeLoad w
  else if opcode w = 0x23#7 then decodeStore w
  else if opcode w = 0x13#7 then decodeOpImm w
  else if opcode w = 0x33#7 then decodeOp c w
  else if opcode w = 0x0F#7 then decodeMiscMem w
  else if opcode w = 0x73#7 then decodeSystem w
  else .unknown w

/-- U1: a word of no row whose decoding depends on whether the decoder checks fields it does not need: OP, BRANCH, LOAD,
STORE and JALR words, and SYSTEM words with funct3 = 0. The whole of MISC_MEM and the CSR forms are no-ops by the
document's words (R116, R117), and a word of an unknown opcode has no member it could be taken for. -/
def policyWord (c : FpCodes) (w : Word) : Bool :=
  decide (decodeWord c w = .unknown w)
    && (decide (opcode w ∈ [0x67#7, 0x63#7, 0x03#7, 0x23#7, 0x33#7]) || decide (opcode w = 0x73#7 ∧ funct3 w = 0#3))

/-- The configuration gives the word a decoding: every word with strict_decode, otherwise those that do not depend on
the policy (U1, log entry 10). -/
def decodable (cfg : Config) (w : Word) : Bool := cfg.strictDecode || !policyWord cfg.fpCodes w

/-- Why bytes are no instruction: fewer than the four bytes of R100. (No word is rejected, R118.) -/
inductive DecodeError where
  | truncated
  deriving DecidableEq, Repr

/-- The word four bytes make, the first the least significant (R62, R100). -/
def wordOfBytes (b0 b1 b2 b3 : Byte) : Word := b3 ++ b2 ++ b1 ++ b0

/-- The bytes of a word in address order (R62). -/
def bytesOfWord (w : Word) : List Byte :=
  [w.extractLsb' 0 8, w.extractLsb' 8 8, w.extractLsb' 16 8, w.extractLsb' 24 8]

/-- The decoder on bytes: the instruction of the first four, and the rest. -/
def decodeBytes (c : FpCodes) : List Byte → Except DecodeError (Instr × List Byte)
  | b0 :: b1 :: b2 :: b3 :: rest => .ok (decodeWord c (wordOfBytes b0 b1 b2 b3), rest)
  | _ => .error .truncated

/-! ### The encoder (R102) -/

namespace Format
/-- R format -/
def r (f7 : BitVec 7) (rs2 rs1 : RegIx) (f3 : BitVec 3) (rd : RegIx) (op : BitVec 7) : Word :=
  f7 ++ rs2 ++ rs1 ++ f3 ++ rd ++ op
/-- I format -/
def i (imm : BitVec 12) (rs1 : RegIx) (f3 : BitVec 3) (rd : RegIx) (op : BitVec 7) : Word :=
  imm ++ rs1 ++ f3 ++ rd ++ op
/-- S format -/
def s (imm : BitVec 12) (rs2 rs1 : RegIx) (f3 : BitVec 3) (op : BitVec 7) : Word :=
  imm.extractLsb' 5 7 ++ rs2 ++ rs1 ++ f3 ++ imm.extractLsb' 0 5 ++ op
/-- B format -/
def b (off : BitVec 13) (rs2 rs1 : RegIx) (f3 : BitVec 3) (op : BitVec 7) : Word :=
  off.extractLsb' 12 1 ++ off.extractLsb' 5 6 ++ rs2 ++ rs1 ++ f3 ++ off.extractLsb' 1 4
    ++ off.extractLsb' 11 1 ++ op
/-- U format -/
def u (imm : BitVec 20) (rd : RegIx) (op : BitVec 7) : Word := imm ++ rd ++ op
/-- J format -/
def j (off : BitVec 21) (rd : RegIx) (op : BitVec 7) : Word :=
  off.extractLsb' 20 1 ++ off.extractLsb' 1 10 ++ off.extractLsb' 11 1 ++ off.extractLsb' 12 8 ++ rd ++ op
/-- A right shift by an immediate: bit 30 selects SRAI, hi holds bits 31 and 29:25 (R111) -/
def shift (arith : BitVec 1) (hi : BitVec 6) (shamt : BitVec 5) (rs1 : RegIx) (f3 : BitVec 3) (rd : RegIx)
    (op : BitVec 7) : Word :=
  hi.extractLsb' 5 1 ++ arith ++ hi.extractLsb' 0 5 ++ shamt ++ rs1 ++ f3 ++ rd ++ op
end Format

/-- The word of an instruction (R102 to R117). -/
def encode (c : FpCodes) : Instr → Word
  | .lui rd imm => Format.u imm rd 0x37#7
  | .auipc rd imm => Format.u imm rd 0x17#7
  | .jal rd off => Format.j off rd 0x6F#7
  | .jalr rd rs1 imm => Format.i imm rs1 0#3 rd 0x67#7
  | .beq rs1 rs2 off => Format.b off rs2 rs1 0#3 0x63#7
  | .bne rs1 rs2 off => Format.b off rs2 rs1 1#3 0x63#7
  | .blt rs1 rs2 off => Format.b off rs2 rs1 4#3 0x63#7
  | .bge rs1 rs2 off => Format.b off rs2 rs1 5#3 0x63#7
  | .bltu rs1 rs2 off => Format.b off rs2 rs1 6#3 0x63#7
  | .bgeu rs1 rs2 off => Format.b off rs2 rs1 7#3 0x63#7
  | .lb rd rs1 imm => Format.i imm rs1 0#3 rd 0x03#7
  | .lh rd rs1 imm => Format.i imm rs1 1#3 rd 0x03#7
  | .lw rd rs1 imm => Format.i imm rs1 2#3 rd 0x03#7
  | .lbu rd rs1 imm => Format.i imm rs1 4#3 rd 0x03#7
  | .lhu rd rs1 imm => Format.i imm rs1 5#3 rd 0x03#7
  | .sb rs2 rs1 imm => Format.s imm rs2 rs1 0#3 0x23#7
  | .sh rs2 rs1 imm => Format.s imm rs2 rs1 1#3 0x23#7
  | .sw rs2 rs1 imm => Format.s imm rs2 rs1 2#3 0x23#7
  | .addi rd rs1 imm => Format.i imm rs1 0#3 rd 0x13#7
  | .slti rd rs1 imm => Format.i imm rs1 2#3 rd 0x13#7
  | .sltiu rd rs1 imm => Format.i imm rs1 3#3 rd 0x13#7
  | .xori rd rs1 imm => Format.i imm rs1 4#3 rd 0x13#7
  | .ori rd rs1 imm => Format.i imm rs1 6#3 rd 0x13#7
  | .andi rd rs1 imm => Format.i imm rs1 7#3 rd 0x13#7
  | .slli rd rs1 shamt hi => Format.r hi shamt rs1 1#3 rd 0x13#7
  | .srli rd rs1 shamt hi => Format.shift 0#1 hi shamt rs1 5#3 rd 0x13#7
  | .srai rd rs1 shamt hi => Format.shift 1#1 hi shamt rs1 5#3 rd 0x13#7
  | .add rd rs1 rs2 => Format.r 0x00#7 rs2 rs1 0#3 rd 0x33#7
  | .sub rd rs1 rs2 => Format.r 0x20#7 rs2 rs1 0#3 rd 0x33#7
  | .sll rd rs1 rs2 => Format.r 0x00#7 rs2 rs1 1#3 rd 0x33#7
  | .slt rd rs1 rs2 => Format.r 0x00#7 rs2 rs1 2#3 rd 0x33#7
  | .sltu rd rs1 rs2 => Format.r 0x00#7 rs2 rs1 3#3 rd 0x33#7
  | .xor rd rs1 rs2 => Format.r 0x00#7 rs2 rs1 4#3 rd 0x33#7
  | .srl rd rs1 rs2 => Format.r 0x00#7 rs2 rs1 5#3 rd 0x33#7
  | .sra rd rs1 rs2 => Format.r 0x20#7 rs2 rs1 5#3 rd 0x33#7
  | .or rd rs1 rs2 => Format.r 0x00#7 rs2 rs1 6#3 rd 0x33#7
  | .and rd rs1 rs2 => Format.r 0x00#7 rs2 rs1 7#3 rd 0x33#7
  | .fadd rd rs1 rs2 f3 => Format.r c.fadd rs2 rs1 f3 rd 0x33#7
  | .fsub rd rs1 rs2 f3 => Format.r c.fsub rs2 rs1 f3 rd 0x33#7
  | .fmul rd rs1 rs2 f3 => Format.r c.fmul rs2 rs1 f3 rd 0x33#7
  | .fdiv rd rs1 rs2 f3 => Format.r c.fdiv rs2 rs1 f3 rd 0x33#7
  | .fsqrt rd rs1 rs2 f3 => Format.r c.fsqrt rs2 rs1 f3 rd 0x33#7
  | .fmin rd rs1 rs2 f3 => Format.r c.fmin rs2 rs1 f3 rd 0x33#7
  | .fmax rd rs1 rs2 f3 => Format.r c.fmax rs2 rs1 f3 rd 0x33#7
  | .feq rd rs1 rs2 f3 => Format.r c.feq rs2 rs1 f3 rd 0x33#7
  | .flt rd rs1 rs2 f3 => Format.r c.flt rs2 rs1 f3 rd 0x33#7
  | .fle rd rs1 rs2 f3 => Format.r c.fle rs2 rs1 f3 rd 0x33#7
  | .fcvtWS rd rs1 rs2 f3 => Format.r c.fcvtWS rs2 rs1 f3 rd 0x33#7
  | .fcvtSW rd rs1 rs2 f3 => Format.r c.fcvtSW rs2 rs1 f3 rd 0x33#7
  | .fence rd rs1 imm => Format.i imm rs1 0#3 rd 0x0F#7
  | .fenceI rd rs1 imm => Format.i imm rs1 1#3 rd 0x0F#7
  | .ecall => 0x00000073#32
  | .ebreak => 0x00100073#32
  | .csrrw rd rs1 csr => Format.i csr rs1 1#3 rd 0x73#7
  | .csrrs rd rs1 csr => Format.i csr rs1 2#3 rd 0x73#7
  | .csrrc rd rs1 csr => Format.i csr rs1 3#3 rd 0x73#7
  | .csrrwi rd uimm csr => Format.i csr uimm 5#3 rd 0x73#7
  | .csrrsi rd uimm csr => Format.i csr uimm 6#3 rd 0x73#7
  | .csrrci rd uimm csr => Format.i csr uimm 7#3 rd 0x73#7
  | .unknown w => w

/-- The instruction the decoder reads from an instruction whose bits are `w`, numbered as the table numbers them
(bit 0 the least significant bit of the first, lowest, byte), with every bit above `nbits` zero and the default
function codes. A row is at most 32 bits (R100). -/
def decodeTableWord (nbits w : Nat) : Option Instr :=
  if nbits ≤ 32 then
    match decodeBytes FpCodes.default (bytesOfWord (BitVec.ofNat 32 (w % 2 ^ nbits))) with
    | .ok (i, _) => some i
    | .error _ => none
  else none

end Sys2Proof
end

