-- ==== Sys2Proof/Machine/Memory.lean ====
section
/-! DEFINITION. Linear memory: bytes by address in one canonical form, and little-endian data of 1, 2 and 4 bytes
built from bytes in one place (R60, R62). -/

namespace Sys2Proof.Machine

/-- Bytes an access moves (R68). -/
def Size.bytes : Size → Nat
  | .byte => 1
  | .half => 2
  | .word => 4

/-- The value an access of this width carries: the low 8n bits (R7, R64). -/
def Size.trunc : Size → Word → Word
  | .byte, v => (v.setWidth 8).setWidth 32
  | .half, v => (v.setWidth 16).setWidth 32
  | .word, v => v

/-- What an unlisted address reads as (DESIGN CHOICE, unsafe, log entry 2; the spec says unspecified, R430). -/
def unwrittenByte : Byte := 0#8

namespace Memory

/-- The byte at an address. -/
def get : Memory → Nat → Byte
  | [], _ => unwrittenByte
  | (k, b) :: rest, a => if a = k then b else if a < k then unwrittenByte else get rest a

/-- Put a byte in front of a memory whose addresses are all above, keeping the canonical form. -/
def put (a : Nat) (b : Byte) (rest : Memory) : Memory :=
  if b = unwrittenByte then rest else (a, b) :: rest

/-- Memory with the byte at an address replaced; the byte an unlisted address reads as removes the entry. -/
def set : Memory → Nat → Byte → Memory
  | [], a, b => put a b []
  | (k, c) :: rest, a, b =>
    if a = k then put a b rest
    else if a < k then put a b ((k, c) :: rest)
    else (k, c) :: set rest a b

/-- The canonical form: addresses strictly rising, no entry equal to what an unlisted address reads as. -/
def wf (m : Memory) : Bool :=
  decide (m.Pairwise (fun x y => x.1 < y.1)) && m.all (fun x => x.2 != unwrittenByte)

/-- Every listed address is below `size`. -/
def below (m : Memory) (size : Nat) : Bool := m.all (fun x => decide (x.1 < size))

/-- Little-endian read of 1, 2 or 4 bytes (R62, R63), zero-extended. -/
def load (m : Memory) (a : Nat) : Size → Word
  | .byte => (m.get a).setWidth 32
  | .half => (m.get (a + 1) ++ m.get a).setWidth 32
  | .word => m.get (a + 3) ++ m.get (a + 2) ++ m.get (a + 1) ++ m.get a

/-- Byte `i` of a word: v[8i+7:8i] (R64). -/
def byteOf (v : Word) (i : Nat) : Byte := v.extractLsb' (8 * i) 8

/-- Little-endian write of the low 1, 2 or 4 bytes of `v` (R62, R64). -/
def store (m : Memory) (a : Nat) : Size → Word → Memory
  | .byte, v => m.set a (byteOf v 0)
  | .half, v => (m.set a (byteOf v 0)).set (a + 1) (byteOf v 1)
  | .word, v => (((m.set a (byteOf v 0)).set (a + 1) (byteOf v 1)).set (a + 2) (byteOf v 2)).set (a + 3) (byteOf v 3)

/-- Raw bytes put at consecutive addresses (R432). -/
def setBytes (m : Memory) (a : Nat) : List Byte → Memory
  | [] => m
  | b :: rest => setBytes (m.set a b) (a + 1) rest

end Memory

end Sys2Proof.Machine
end

