-- ==== Sys2Proof/Machine/Ops.lean ====
section
/-! DEFINITION. The operations instructions are made of. An instruction is a sequence of accesses (`Act`), each one
event of R74: a register-port access, a memory access, a console append, a step of the syscall gate. `Act.run`
performs them one after the other, which is what a unit running alone does; Micro.lean performs them one at a time.

This hardware takes no exceptions (R400): there is no saved pc, cause or handler. What stands in their place is the
syscall gate (R406), the events `ringInc`, `ringOwner`, `ringStore`, `setWaiting` here with `queueSyscall` in System.lean,
and the halt flag (`raiseHalt`). There is no return instruction (R408): resuming is the host's `setVmStatus`. -/

namespace Sys2Proof.Machine

/-! ### The current VM and unit -/

namespace VM
/-- The execution unit with this number. -/
def unit (vm : VM) (u : Nat) : ExecUnit := vm.tick.units.getD u ExecUnit.fresh

/-- Replace the execution unit with this number. -/
def setUnit (vm : VM) (u : Nat) (x : ExecUnit) : VM :=
  { vm with tick := { vm.tick with units := vm.tick.units.set u x } }

/-- Register read port: x0 reads 0, register i is the word at bytes 4i to 4i+3 (R20, R21). -/
def reg (vm : VM) (r : RegIx) : Word := if r = 0#5 then 0#32 else vm.mem.load (4 * r.toNat) .word

/-- Register write port: a write to x0 is discarded and bytes 0 to 3 stay as they are (R22). -/
def setReg (vm : VM) (r : RegIx) (v : Word) : VM :=
  if r = 0#5 then vm else { vm with mem := vm.mem.store (4 * r.toNat) .word v }

/-- Replace the shared program counter. -/
def setPc (vm : VM) (pc : Word) : VM := { vm with cpu := { vm.cpu with pc := pc } }
end VM

/-- What the accesses of one instruction work on: the executing VM and the draw counter. -/
structure Ctx where
  vmId : VmId
  vm : VM
  free : Nat
  deriving DecidableEq, Repr

namespace State
/-- The VM of the tick. -/
def vm (s : State) : VM := s.vms[s.cur]
/-- Replace the VM of the tick. -/
def withVm (s : State) (vm : VM) : State := { s with vms := s.vms.set s.cur vm }
/-- The unit that moves. -/
def unit (s : State) : ExecUnit := s.vm.unit s.vm.tick.turn
/-- The claimed address: the `pc` of every instruction rule (R7, R306). -/
def ia (s : State) : Word := s.unit.ia
/-- Register read port of the VM of the tick (R21). -/
def reg (s : State) (r : RegIx) : Word := s.vm.reg r
/-- Register write port of the VM of the tick (R22). -/
def setReg (s : State) (r : RegIx) (v : Word) : State := s.withVm (s.vm.setReg r v)
/-- One byte of the memory of the VM of the tick. -/
def byte (s : State) (a : Nat) : Byte := s.vm.mem.get a
/-- What an instruction's accesses work on. -/
def ctx (s : State) : Ctx := ⟨s.cur, s.vm, s.free⟩
/-- Put back what an instruction's accesses left. -/
def withCtx (s : State) (c : Ctx) : State := { s.withVm c.vm with free := c.free }
/-- Record the computed next-address and whether the instruction stops its unit (R190, R308). -/
def setNext (s : State) (next : Word) (stop : Bool) : State :=
  s.withVm (s.vm.setUnit s.vm.tick.turn { s.unit with next := next, stop := stop })
end State

/-! ### The memory primitives -/

/-- Some byte of `a .. a+n-1` lies in the display window (R69). An empty window is touched by nothing (log entry 21). -/
def touchesWindow (cfg : Config) (a : Nat) (n : Size) : Bool :=
  decide (0 < cfg.windowSize) && decide (a < cfg.mmioBase + cfg.windowSize) && decide (cfg.mmioBase < a + n.bytes)

/-- A 32-bit address inside the display window that is a multiple of 4: case 1 of R64 for a word store. -/
def isPixelAddress (cfg : Config) (a : Nat) : Bool :=
  decide (a % 4 = 0) && decide (cfg.mmioBase ≤ a) && decide (a < cfg.mmioBase + cfg.windowSize)

/-- An access at an address that is not a multiple of its size (R67). -/
def isMisaligned (a : Nat) (n : Size) : Bool := decide (a % n.bytes ≠ 0)

/-- Draw an unspecified value (log entry 6). -/
def drawWord (c : Ctx) : Word × Ctx := (Config.freeWord c.free, { c with free := c.free + 1 })

/-- Where a data read goes (R63, R65, R67, R72). -/
inductive ReadKind where
  | plain
  | window
  | refused (r : Refusal)
  deriving DecidableEq, Repr

/-- Classify a data read. -/
def readKind (cfg : Config) (a : Nat) (n : Size) : ReadKind :=
  if touchesWindow cfg a n then .window
  else if cfg.memSize < a + n.bytes then .refused .outOfRange
  else if isMisaligned a n && !cfg.allowMisaligned then .refused .misalignedAccess
  else .plain

/-- Where a data write goes (R64, R65, R67). -/
inductive WriteKind where
  | plain
  | pixel
  | refused (r : Refusal)
  deriving DecidableEq, Repr

/-- Classify a data write. -/
def writeKind (cfg : Config) (a : Nat) (n : Size) : WriteKind :=
  if n = .word && isPixelAddress cfg a then .pixel
  else if touchesWindow cfg a n then .refused .windowStore
  else if cfg.memSize < a + n.bytes then .refused .outOfRange
  else if isMisaligned a n && !cfg.allowMisaligned then .refused .misalignedAccess
  else .plain

/-- MemRead (R63): plain memory little-endian, a draw of the access's width in the window (R72). -/
def memRead (cfg : Config) (c : Ctx) (a : Word) (n : Size) : Except Refusal (Word × Ctx) :=
  match readKind cfg a.toNat n with
  | .plain => .ok (c.vm.mem.load a.toNat n, c)
  | .window => .ok (n.trunc (drawWord c).1, (drawWord c).2)
  | .refused r => .error r

/-- The pixel transaction of a word store at a window address: row-major, rows inverted (R70). -/
def pixelStore (cfg : Config) (a : Nat) (v : Word) : PixelStore :=
  let p := (a - cfg.mmioBase) / 4
  { col := p % cfg.fbWidth, row := cfg.fbHeight - 1 - p / cfg.fbWidth, value := v }

/-- Issue one pixel transaction; memory is not changed (R64 case 1, R70). -/
def VM.issuePixel (vm : VM) (p : PixelStore) : VM := { vm with pixels := vm.pixels ++ [p] }

/-- Store to plain memory (R64 case 2). -/
def VM.storeMem (vm : VM) (a : Nat) (n : Size) (v : Word) : VM := { vm with mem := vm.mem.store a n v }

/-- MemWrite (R64). -/
def memWrite (cfg : Config) (c : Ctx) (a : Word) (n : Size) (v : Word) : Except Refusal Ctx :=
  match writeKind cfg a.toNat n with
  | .plain => .ok { c with vm := c.vm.storeMem a.toNat n v }
  | .pixel => .ok { c with vm := c.vm.issuePixel (pixelStore cfg a.toNat v) }
  | .refused r => .error r

/-- Instruction fetch: MemRead(ia, 4), refused beyond memory and in the window (R78, R79). -/
def fetchWord (cfg : Config) (vm : VM) (ia : Word) : Except Refusal Word :=
  if touchesWindow cfg ia.toNat .word then .error .windowFetch
  else if cfg.memSize < ia.toNat + 4 then .error .outOfRange
  else .ok (vm.mem.load ia.toNat .word)

/-- The channels of a packed pixel: R, G, B, A from the low byte (R71). -/
def PixelStore.channels (p : PixelStore) : Byte × Byte × Byte × Byte :=
  (p.value.extractLsb' 0 8, p.value.extractLsb' 8 8, p.value.extractLsb' 16 8, p.value.extractLsb' 24 8)

/-! ### Console, ring, status (R283, R284, R285) -/

/-- Append one byte to the console, dropped when it is full (R284). -/
def VM.appendConsole (cfg : Config) (vm : VM) (b : Byte) : VM :=
  if vm.consoleLen < cfg.consoleCap then
    { vm with console := vm.console.set vm.consoleLen b, consoleLen := vm.consoleLen + 1 }
  else vm

/-- The ring slot of a counter value (R42). -/
def ringSlot (ctr : Word) : Fin 16 := ⟨ctr.toNat % 16, Nat.mod_lt _ (by decide)⟩

/-- An entry with one of its words replaced (R364). -/
def SyscallEntry.setField (e : SyscallEntry) (f : SyscallField) (v : Word) : SyscallEntry :=
  match f with
  | .vmId => { e with vmId := v }
  | .number => { e with number := v }
  | .arg0 => { e with arg0 := v }
  | .arg1 => { e with arg1 := v }
  | .arg2 => { e with arg2 := v }
  | .arg3 => { e with arg3 := v }
  | .arg4 => { e with arg4 := v }
  | .arg5 => { e with arg5 := v }
  | .result => { e with result := v }

/-- Write one word of a ring slot. -/
def VM.storeRing (vm : VM) (slot : Fin 16) (f : SyscallField) (v : Word) : VM :=
  { vm with ring := vm.ring.set slot (vm.ring[slot].setField f v) }

/-! ### Accesses -/

/-- Element `k` of a list modulo its length, and the rest. -/
def chooseFrom {α : Type} [Inhabited α] (l : List α) (k : Nat) : α × List α :=
  (l.getD (k % l.length) default, l.eraseIdx (k % l.length))

/-- One access of an instruction: one event of R74. Each answers a word, 0 where it reads nothing. -/
inductive Event where
  | readReg (r : RegIx)
  | writeReg (r : RegIx) (v : Word)
  | load (a : Word) (n : Size)
  | store (a : Word) (n : Size) (v : Word)
  /-- append a byte to the console, atomically (R284) -/
  | append (b : Byte)
  /-- atomic_inc(ring_ctr), answering the value before (R283) -/
  | ringInc
  /-- write the vm_id of the ring slot of a counter value (R283, R364) -/
  | ringOwner (ctr : Word)
  /-- write another word of that slot; a slot write is no atomic (R326) -/
  | ringStore (ctr : Word) (f : SyscallField) (v : Word)
  /-- VMStatus <- WAITING_SYSCALL (R283) -/
  | setWaiting
  /-- halt_flag <- 1 (R285) -/
  | raiseHalt
  /-- draw an unspecified value (R246) -/
  | draw
  /-- no access, but the choice of which access goes next where the spec states no order (R12, log entry 22). A unit among
  others answers a free number; alone, where no order can be told from another, 0 -/
  | choose
  deriving DecidableEq, Repr

/-- What one access does when it is performed as a whole, and what it answers. -/
def Event.perform (cfg : Config) (e : Event) (c : Ctx) : Except Refusal (Word × Ctx) :=
  match e with
  | .readReg r => .ok (c.vm.reg r, c)
  | .writeReg r v => .ok (0#32, { c with vm := c.vm.setReg r v })
  | .load a n => memRead cfg c a n
  | .store a n v =>
    match memWrite cfg c a n v with
    | .ok c' => .ok (0#32, c')
    | .error r => .error r
  | .append b => .ok (0#32, { c with vm := c.vm.appendConsole cfg b })
  | .ringInc => .ok (c.vm.ringCtr, { c with vm := { c.vm with ringCtr := c.vm.ringCtr + 1#32 } })
  | .ringOwner ctr => .ok (0#32, { c with vm := c.vm.storeRing (ringSlot ctr) .vmId (BitVec.ofNat 32 c.vmId.val) })
  | .ringStore ctr f v => .ok (0#32, { c with vm := c.vm.storeRing (ringSlot ctr) f v })
  | .setWaiting => .ok (0#32, { c with vm := { c.vm with vmStatus := .waitingSyscall } })
  | .raiseHalt => .ok (0#32, { c with vm := { c.vm with tick := { c.vm.tick with haltFlag := true } } })
  | .draw => .ok (drawWord c)
  | .choose => .ok (0#32, c)

/-- An instruction's accesses: it ends with its computed next-address and whether it stops its unit, or makes one
access and goes on with the answer. -/
inductive Act where
  | ret (next : Word) (stop : Bool)
  | op (e : Event) (k : Word → Act)

/-- The meaning of an instruction: its accesses, given the configuration and its own address `pc` (R7). -/
abbrev Meaning := Config → Word → Act

/-- What a completed instruction leaves. -/
structure Done where
  next : Word
  stop : Bool
  ctx : Ctx
  deriving DecidableEq, Repr

/-- Perform all the accesses of an instruction, one after the other. -/
def Act.run (cfg : Config) : Act → Ctx → Except Refusal Done
  | .ret next stop, c => .ok ⟨next, stop, c⟩
  | .op e k, c =>
    match e.perform cfg c with
    | .ok (v, c') => (k v).run cfg c'
    | .error r => .error r

/-- The rest of an instruction after its first accesses have answered these words. -/
def Act.after : Act → List Word → Act
  | a, [] => a
  | .ret next stop, _ :: _ => .ret next stop
  | .op _ k, v :: rest => (k v).after rest

/-- Run an instruction on the VM and unit of the tick (R307): its effects, and its next-address recorded for the
scheduler to commit (R309). -/
def State.execute (m : Meaning) (s : State) : Host.Outcome State Fault Refusal :=
  match (m s.cfg s.ia).run s.cfg s.ctx with
  | .ok d => .next ((s.withCtx d.ctx).setNext d.next d.stop)
  | .error r => .refused r

end Sys2Proof.Machine
end

