-- ==== Sys2Proof/Machine/Operands.lean ====
section
/-! DEFINITION. The operand forms: immediates as 32-bit values (R103 to R107), effective addresses (R210), shift
amounts (R111, R157), and the order in which a form reads its sources and writes its destination (R142, R211). -/

namespace Sys2Proof.Machine

/-- immI and immS: sext_12 (R103, R104). -/
def sext12 (imm : BitVec 12) : Word := imm.signExtend 32
/-- immB: sext_13 of the offset (R105). -/
def immB (off : BitVec 13) : Word := off.signExtend 32
/-- immJ: sext_21 of the offset (R107). -/
def immJ (off : BitVec 21) : Word := off.signExtend 32
/-- immU: the 20-bit field in bits 31 to 12 (R106). -/
def immU (imm : BitVec 20) : Word := imm ++ 0#12
/-- The low five bits of a register: a register shift amount (R157). -/
def shamtOf (v : Word) : BitVec 5 := v.extractLsb' 0 5

/-- The end of an instruction whose rule assigns no `pc`: next = pc + 4 (R190). -/
def fallThrough (pc : Word) : Act := .ret (pc + 4#32) false

/-- rd <- v, next = pc + 4. -/
def writeBack (rd : RegIx) (v : Word) (pc : Word) : Act := .op (.writeReg rd v) fun _ => fallThrough pc

/-- U format: rd <- f(pc). -/
def upperForm (rd : RegIx) (f : Word → Word) : Meaning := fun _ pc => writeBack rd (f pc) pc

/-- One source register: rd <- f(x[rs1]) (R142). -/
def unaryForm (rd rs1 : RegIx) (f : Config → Word → Word) : Meaning := fun cfg pc =>
  .op (.readReg rs1) fun a => writeBack rd (f cfg a) pc

/-- Read two registers, in either order (R142 and R195 state none, R12, log entry 22). -/
def readBoth (rs1 rs2 : RegIx) (k : Word → Word → Act) : Act :=
  .op .choose fun n =>
    if n.getLsbD 0 then .op (.readReg rs2) fun b => .op (.readReg rs1) fun a => k a b
    else .op (.readReg rs1) fun a => .op (.readReg rs2) fun b => k a b

/-- Two source registers: rd <- f(x[rs1], x[rs2]) (R142). -/
def binaryForm (rd rs1 rs2 : RegIx) (f : Config → Word → Word → Word) : Meaning := fun cfg pc =>
  readBoth rs1 rs2 fun a b => writeBack rd (f cfg a b) pc

/-- Branch: pc + immB when the condition holds, else pc + 4; no register is written (R195). -/
def branchForm (rs1 rs2 : RegIx) (off : BitVec 13) (cond : Word → Word → Bool) : Meaning := fun _ pc =>
  readBoth rs1 rs2 fun a b => .ret (if cond a b then pc + immB off else pc + 4#32) false

/-- Load: rd <- ext(MemRead(x[rs1] + imm, n)) (R210, R211). -/
def loadForm (rd rs1 : RegIx) (imm : BitVec 12) (n : Size) (ext : Word → Word) : Meaning := fun _ pc =>
  .op (.readReg rs1) fun base => .op (.load (base + sext12 imm) n) fun v => writeBack rd (ext v) pc

/-- Store: MemWrite(x[rs1] + imm, n, x[rs2]) (R210, R211). -/
def storeForm (rs2 rs1 : RegIx) (imm : BitVec 12) (n : Size) : Meaning := fun _ pc =>
  readBoth rs1 rs2 fun base v => .op (.store (base + sext12 imm) n v) fun _ => fallThrough pc

/-- An instruction with no effect: next = pc + 4 (R280, R286, R290). -/
def noEffectForm : Meaning := fun _ pc => fallThrough pc

/-- sext_8 and sext_16 of a loaded value (R213, R214). -/
def sextByte (v : Word) : Word := (v.setWidth 8).signExtend 32
def sextHalf (v : Word) : Word := (v.setWidth 16).signExtend 32
/-- zext_8 and zext_16 of a loaded value (R216, R217). -/
def zextByte (v : Word) : Word := (v.setWidth 8).setWidth 32
def zextHalf (v : Word) : Word := (v.setWidth 16).setWidth 32

end Sys2Proof.Machine
end

