-- ==== Sys2Proof/Machine/Flags.lean ====
section
/-! DEFINITION. There are no flags or condition codes on this hardware (R29): instructions compare registers
directly. Here are the integer comparisons (R140, R195) and the 0 or 1 they write. -/

namespace Sys2Proof.Machine

/-- The integer 1 or 0 a comparison writes (R147, R243). -/
def boolWord (b : Bool) : Word := if b then 1#32 else 0#32

/-- signed(a) < signed(b) (R158, R198). -/
def ltSigned (a b : Word) : Bool := decide (a.toInt < b.toInt)
/-- unsigned(a) < unsigned(b) (R159, R200). -/
def ltUnsigned (a b : Word) : Bool := decide (a.toNat < b.toNat)
/-- signed(a) >= signed(b) (R199). -/
def geSigned (a b : Word) : Bool := decide (b.toInt ≤ a.toInt)
/-- unsigned(a) >= unsigned(b) (R201). -/
def geUnsigned (a b : Word) : Bool := decide (b.toNat ≤ a.toNat)

end Sys2Proof.Machine
end

