-- ==== Sys2Proof/Machine/Control.lean ====
section
/-! DEFINITION. JAL, JALR and the branches (R190 to R202). They compute `next`; whether it reaches the shared program counter is the
scheduler's business (R309). -/

namespace Sys2Proof.Machine

/-- JAL (R193): rd <- pc + 4, next = pc + immJ. -/
def actJal (rd : RegIx) (off : BitVec 21) : Meaning :=
  fun _ pc => .op (.writeReg rd (pc + 4#32)) fun _ => .ret (pc + immJ off) false
def execJal (rd : RegIx) (off : BitVec 21) (s : State) : Host.Outcome State Fault Refusal := s.execute (actJal rd off)

/-- JALR (R194): the source is read before the link is written; bit 0 of the target is cleared. -/
def actJalr (rd rs1 : RegIx) (imm : BitVec 12) : Meaning :=
  fun _ pc => .op (.readReg rs1) fun a =>
    .op (.writeReg rd (pc + 4#32)) fun _ => .ret ((a + sext12 imm) &&& 0xFFFFFFFE#32) false
def execJalr (rd rs1 : RegIx) (imm : BitVec 12) (s : State) : Host.Outcome State Fault Refusal := s.execute (actJalr rd rs1 imm)

/-- BEQ (R196). -/
def actBeq (rs1 rs2 : RegIx) (off : BitVec 13) : Meaning :=
  branchForm rs1 rs2 off fun a b => a == b
def execBeq (rs1 rs2 : RegIx) (off : BitVec 13) (s : State) : Host.Outcome State Fault Refusal := s.execute (actBeq rs1 rs2 off)

/-- BNE (R197). -/
def actBne (rs1 rs2 : RegIx) (off : BitVec 13) : Meaning :=
  branchForm rs1 rs2 off fun a b => a != b
def execBne (rs1 rs2 : RegIx) (off : BitVec 13) (s : State) : Host.Outcome State Fault Refusal := s.execute (actBne rs1 rs2 off)

/-- BLT (R198). -/
def actBlt (rs1 rs2 : RegIx) (off : BitVec 13) : Meaning :=
  branchForm rs1 rs2 off ltSigned
def execBlt (rs1 rs2 : RegIx) (off : BitVec 13) (s : State) : Host.Outcome State Fault Refusal := s.execute (actBlt rs1 rs2 off)

/-- BGE (R199). -/
def actBge (rs1 rs2 : RegIx) (off : BitVec 13) : Meaning :=
  branchForm rs1 rs2 off geSigned
def execBge (rs1 rs2 : RegIx) (off : BitVec 13) (s : State) : Host.Outcome State Fault Refusal := s.execute (actBge rs1 rs2 off)

/-- BLTU (R200). -/
def actBltu (rs1 rs2 : RegIx) (off : BitVec 13) : Meaning :=
  branchForm rs1 rs2 off ltUnsigned
def execBltu (rs1 rs2 : RegIx) (off : BitVec 13) (s : State) : Host.Outcome State Fault Refusal := s.execute (actBltu rs1 rs2 off)

/-- BGEU (R201). -/
def actBgeu (rs1 rs2 : RegIx) (off : BitVec 13) : Meaning :=
  branchForm rs1 rs2 off geUnsigned
def execBgeu (rs1 rs2 : RegIx) (off : BitVec 13) (s : State) : Host.Outcome State Fault Refusal := s.execute (actBgeu rs1 rs2 off)

end Sys2Proof.Machine
end

