-- ==== Sys2Proof/Machine/Float.lean ====
section
/-! DEFINITION. IEEE-754 binary32 on 32-bit words, with exact integer arithmetic (R8, R232 to R247). Every finite
value is an integer multiple of 2^-149, the smallest subnormal; `units` is that integer. -/

namespace Sys2Proof.Machine.Fp

/-- Biased exponent v[30:23] (R232). -/
def expo (v : Word) : Nat := (v.extractLsb' 23 8).toNat
/-- Fraction v[22:0] (R232). -/
def frac (v : Word) : Nat := (v.extractLsb' 0 23).toNat
/-- v[31] (R8). -/
def sign (v : Word) : Bool := v.getLsbD 31
/-- v[30:0]: the bits without the sign. -/
def mag (v : Word) : Nat := (v.extractLsb' 0 31).toNat

/-- R8. -/
def isNaN (v : Word) : Bool := decide (expo v = 0xFF) && decide (frac v ≠ 0)
/-- R8. -/
def isInf (v : Word) : Bool := decide (expo v = 0xFF) && decide (frac v = 0)
/-- R8: v[30:0] = 0. -/
def isZero (v : Word) : Bool := decide (mag v = 0)
/-- Exponent 0 with non-zero fraction (R232). -/
def isSubnormal (v : Word) : Bool := decide (expo v = 0) && decide (frac v ≠ 0)

/-- Infinity of a sign (R8). -/
def inf (s : Bool) : Word := if s then 0xFF800000#32 else 0x7F800000#32
/-- Zero of a sign (R8). -/
def zero (s : Bool) : Word := if s then 0x80000000#32 else 0x00000000#32

/-- The magnitude of a finite value in multiples of 2^-149 (R232): the fraction for a subnormal or zero, otherwise
(2^23 + fraction) * 2^(exponent - 1). -/
def units (v : Word) : Nat := if expo v = 0 then frac v else (2 ^ 23 + frac v) * 2 ^ (expo v - 1)

/-- The finite value, signed, in multiples of 2^-149. -/
def signedUnits (v : Word) : Int := if sign v then -(units v : Int) else units v

/-- The exponent of the quantum of a result of magnitude num/den units: the results near it are the multiples of
2^e units with fewer than 25 bits. -/
def quantum (num den : Nat) : Nat := (num / den).log2 - 23

/-- Whether a quotient q with remainder r of divisor d is rounded up in magnitude (R234, U11). -/
def roundsUp (mode : RoundMode) (s : Bool) (q r d : Nat) : Bool :=
  match mode with
  | .nearestEven => decide (d < 2 * r) || (decide (2 * r = d) && decide (q % 2 = 1))
  | .nearestAway => decide (d ≤ 2 * r)
  | .towardZero => false
  | .down => s && decide (0 < r)
  | .up => !s && decide (0 < r)

/-- The magnitude an overflow gives: infinity when rounding to nearest (R234) or away from zero, otherwise the
largest finite value. -/
def overflowMag (mode : RoundMode) (s : Bool) : Nat :=
  match mode with
  | .nearestEven | .nearestAway => 0x7F800000
  | .towardZero => 0x7F7FFFFF
  | .down => if s then 0x7F800000 else 0x7F7FFFFF
  | .up => if s then 0x7F7FFFFF else 0x7F800000

/-- The bits v[30:0] of the magnitude num/den units (den > 0) rounded: gradual underflow, overflow (R234). With the
quantum 2^e the bits of q * 2^e units are e * 2^23 + q, a carry included. -/
def roundMag (mode : RoundMode) (s : Bool) (num den : Nat) : Nat :=
  let e := quantum num den
  let d := den * 2 ^ e
  let q := num / d
  let r := num % d
  let bits := e * 2 ^ 23 + q + (if roundsUp mode s q r d then 1 else 0)
  if 0x7F800000 ≤ bits then overflowMag mode s else bits

/-- A word from its sign and v[30:0]. -/
def pack (s : Bool) (m : Nat) : Word := (BitVec.ofBool s) ++ (BitVec.ofNat 31 m)

/-- With fp_flush_subnormals a subnormal is taken as a zero of its sign (U9); by default it is itself (R234). -/
def flush (cfg : Config) (v : Word) : Word :=
  if cfg.flushSubnormals && isSubnormal v then zero (sign v) else v

/-- round(r) for a result of sign s and magnitude num/den units (R8, R234). -/
def round (cfg : Config) (s : Bool) (num den : Nat) : Word := flush cfg (pack s (roundMag cfg.fpRound s num den))

/-- fp_add without the NaN rule, on operands already flushed (R236 cases 2 to 5). The exact zero sum is +0 in every
rounding mode (R234, log entry 9). -/
def addCore (cfg : Config) (a b : Word) : Word :=
  if isInf a && isInf b then (if sign a = sign b then a else cfg.qnan)
  else if isInf a then a
  else if isInf b then b
  else if isZero a && isZero b then (if sign a = sign b then a else zero false)
  else
    let sum := signedUnits a + signedUnits b
    if sum = 0 then zero false else round cfg (decide (sum < 0)) sum.natAbs 1

/-- fp_add (R236). -/
def add (cfg : Config) (a b : Word) : Word :=
  if isNaN a || isNaN b then cfg.qnan else addCore cfg (flush cfg a) (flush cfg b)

/-- FSUB: fp_add with the sign of b flipped (R237). -/
def sub (cfg : Config) (a b : Word) : Word :=
  if isNaN a || isNaN b then cfg.qnan else add cfg a (b ^^^ 0x80000000#32)

/-- FMUL after the NaN rule (R238 cases 2 to 5). -/
def mulCore (cfg : Config) (a b : Word) : Word :=
  let s := xor (sign a) (sign b)
  if (isInf a && isZero b) || (isZero a && isInf b) then cfg.qnan
  else if isInf a || isInf b then inf s
  else if isZero a || isZero b then zero s
  else round cfg s (units a * units b) (2 ^ 149)

/-- FMUL (R238). -/
def mul (cfg : Config) (a b : Word) : Word :=
  if isNaN a || isNaN b then cfg.qnan else mulCore cfg (flush cfg a) (flush cfg b)

/-- FDIV after the NaN rule (R239 cases 2 to 6). -/
def divCore (cfg : Config) (a b : Word) : Word :=
  let s := xor (sign a) (sign b)
  if isZero b then (if isZero a then cfg.qnan else inf s)
  else if isInf b then (if isInf a then cfg.qnan else zero s)
  else if isInf a then inf s
  else if isZero a then zero s
  else round cfg s (units a * 2 ^ 149) (units b)

/-- FDIV (R239). -/
def div (cfg : Config) (a b : Word) : Word :=
  if isNaN a || isNaN b then cfg.qnan else divCore cfg (flush cfg a) (flush cfg b)

/-- Integer square root, the bits of the root from the `k`-th down to the lowest. -/
def isqrtBits (n : Nat) : Nat → Nat → Nat
  | 0, root => root
  | k + 1, root =>
    if (root + 2 ^ k) * (root + 2 ^ k) ≤ n then isqrtBits n k (root + 2 ^ k) else isqrtBits n k root

/-- The largest r with r * r ≤ n. -/
def isqrt (n : Nat) : Nat := isqrtBits n (n.log2 / 2 + 1) 0

/-- FSQRT after the NaN rule (R240 cases 2 to 5). The root of `units a` in units is sqrt(units a * 2^149); when it is
not an integer it is passed to the rounding as r + 1/2, which lies on the same side of every rounding boundary. -/
def sqrtCore (cfg : Config) (a : Word) : Word :=
  if isZero a then a
  else if sign a then cfg.qnan
  else if isInf a then a
  else
    let n := units a * 2 ^ 149
    let r := isqrt n
    round cfg false (2 * r + (if r * r = n then 0 else 1)) 2

/-- FSQRT (R240). -/
def sqrt (cfg : Config) (a : Word) : Word :=
  if isNaN a then cfg.qnan else sqrtCore cfg (flush cfg a)

/-- The order of the non-NaN values as integers: real(a) < real(b) exactly when key a < key b; both zeros are 0 and
the infinities are the extremes (R241, R243 to R245). -/
def key (v : Word) : Int := if sign v then -(mag v : Int) else mag v

/-- The sign of the zero picked of two zeros with these signs; of two alike, theirs (R241 and R242 case 3, R248). -/
def zeroSign (p : ZeroPick) (sa sb : Bool) : Bool :=
  match p with
  | .negative => sa || sb
  | .positive => sa && sb
  | .first => sa
  | .second => sb

/-- FMIN (R241). -/
def min (cfg : Config) (a b : Word) : Word :=
  if isNaN a && isNaN b then cfg.qnan
  else if isNaN a then b
  else if isNaN b then a
  else if isZero a && isZero b then zero (zeroSign cfg.fminZero (sign a) (sign b))
  else if key a ≤ key b then a else b

/-- FMAX (R242). -/
def max (cfg : Config) (a b : Word) : Word :=
  if isNaN a && isNaN b then cfg.qnan
  else if isNaN a then b
  else if isNaN b then a
  else if isZero a && isZero b then zero (zeroSign cfg.fmaxZero (sign a) (sign b))
  else if key b ≤ key a then a else b

/-- Neither operand is a NaN. -/
def ordered (a b : Word) : Bool := !isNaN a && !isNaN b

/-- FEQ (R243). -/
def eq (a b : Word) : Word := boolWord (ordered a b && decide (key a = key b))
/-- FLT (R244). -/
def lt (a b : Word) : Word := boolWord (ordered a b && decide (key a < key b))
/-- FLE (R245). -/
def le (a b : Word) : Word := boolWord (ordered a b && decide (key a ≤ key b))

/-- trunc(real(a)) of a finite value, toward zero (R246). -/
def truncInt (a : Word) : Int :=
  let t : Nat := units a / 2 ^ 149
  if sign a then -(t : Int) else t

/-- The in-range result of FCVT.W.S, or none where it is cvt_oor, an unspecified value (R246). -/
def toInt32 (a : Word) : Option Word :=
  if isNaN a || isInf a then none
  else if -(2 ^ 31) ≤ truncInt a ∧ truncInt a ≤ 2 ^ 31 - 1 then some (BitVec.ofInt 32 (truncInt a))
  else none

/-- FCVT.S.W: the integer rounded by cvt_s_w_round, by default toward zero; 0 gives +0 (R247). -/
def ofInt32 (cfg : Config) (v : Word) : Word :=
  pack (decide (v.toInt < 0)) (roundMag cfg.cvtRound (decide (v.toInt < 0)) (v.toInt.natAbs * 2 ^ 149) 1)

end Sys2Proof.Machine.Fp
end

