-- ==== Sys2Proof/Machine/FloatArith.lean ====
section
/-! DEFINITION. The floating-point instructions, on the integer registers (R230 to R247). None traps and there are no exception
flags (R231); the funct3 bits are ignored (R112). -/

namespace Sys2Proof.Machine

/-- FADD (R236). -/
def actFadd (rd rs1 rs2 : RegIx) (_f3 : BitVec 3) : Meaning :=
  binaryForm rd rs1 rs2 Fp.add
def execFadd (rd rs1 rs2 : RegIx) (f3 : BitVec 3) (s : State) : Host.Outcome State Fault Refusal := s.execute (actFadd rd rs1 rs2 f3)

/-- FSUB (R237). -/
def actFsub (rd rs1 rs2 : RegIx) (_f3 : BitVec 3) : Meaning :=
  binaryForm rd rs1 rs2 Fp.sub
def execFsub (rd rs1 rs2 : RegIx) (f3 : BitVec 3) (s : State) : Host.Outcome State Fault Refusal := s.execute (actFsub rd rs1 rs2 f3)

/-- FMUL (R238). -/
def actFmul (rd rs1 rs2 : RegIx) (_f3 : BitVec 3) : Meaning :=
  binaryForm rd rs1 rs2 Fp.mul
def execFmul (rd rs1 rs2 : RegIx) (f3 : BitVec 3) (s : State) : Host.Outcome State Fault Refusal := s.execute (actFmul rd rs1 rs2 f3)

/-- FDIV (R239). -/
def actFdiv (rd rs1 rs2 : RegIx) (_f3 : BitVec 3) : Meaning :=
  binaryForm rd rs1 rs2 Fp.div
def execFdiv (rd rs1 rs2 : RegIx) (f3 : BitVec 3) (s : State) : Host.Outcome State Fault Refusal := s.execute (actFdiv rd rs1 rs2 f3)

/-- FSQRT (R240); rs2 is ignored. -/
def actFsqrt (rd rs1 _rs2 : RegIx) (_f3 : BitVec 3) : Meaning :=
  unaryForm rd rs1 Fp.sqrt
def execFsqrt (rd rs1 rs2 : RegIx) (f3 : BitVec 3) (s : State) : Host.Outcome State Fault Refusal := s.execute (actFsqrt rd rs1 rs2 f3)

/-- FMIN (R241). -/
def actFmin (rd rs1 rs2 : RegIx) (_f3 : BitVec 3) : Meaning :=
  binaryForm rd rs1 rs2 Fp.min
def execFmin (rd rs1 rs2 : RegIx) (f3 : BitVec 3) (s : State) : Host.Outcome State Fault Refusal := s.execute (actFmin rd rs1 rs2 f3)

/-- FMAX (R242). -/
def actFmax (rd rs1 rs2 : RegIx) (_f3 : BitVec 3) : Meaning :=
  binaryForm rd rs1 rs2 Fp.max
def execFmax (rd rs1 rs2 : RegIx) (f3 : BitVec 3) (s : State) : Host.Outcome State Fault Refusal := s.execute (actFmax rd rs1 rs2 f3)

/-- FEQ (R243). -/
def actFeq (rd rs1 rs2 : RegIx) (_f3 : BitVec 3) : Meaning :=
  binaryForm rd rs1 rs2 fun _ => Fp.eq
def execFeq (rd rs1 rs2 : RegIx) (f3 : BitVec 3) (s : State) : Host.Outcome State Fault Refusal := s.execute (actFeq rd rs1 rs2 f3)

/-- FLT (R244). -/
def actFlt (rd rs1 rs2 : RegIx) (_f3 : BitVec 3) : Meaning :=
  binaryForm rd rs1 rs2 fun _ => Fp.lt
def execFlt (rd rs1 rs2 : RegIx) (f3 : BitVec 3) (s : State) : Host.Outcome State Fault Refusal := s.execute (actFlt rd rs1 rs2 f3)

/-- FLE (R245). -/
def actFle (rd rs1 rs2 : RegIx) (_f3 : BitVec 3) : Meaning :=
  binaryForm rd rs1 rs2 fun _ => Fp.le
def execFle (rd rs1 rs2 : RegIx) (f3 : BitVec 3) (s : State) : Host.Outcome State Fault Refusal := s.execute (actFle rd rs1 rs2 f3)

/-- FCVT.W.S (R246): truncation; where the result is not a 32-bit signed integer it is a draw, cvt_oor. -/
def actFcvtWS (rd rs1 _rs2 : RegIx) (_f3 : BitVec 3) : Meaning :=
  fun _ pc => .op (.readReg rs1) fun a =>
    match Fp.toInt32 a with
    | some v => writeBack rd v pc
    | none => .op .draw fun v => writeBack rd v pc
def execFcvtWS (rd rs1 rs2 : RegIx) (f3 : BitVec 3) (s : State) : Host.Outcome State Fault Refusal := s.execute (actFcvtWS rd rs1 rs2 f3)

/-- FCVT.S.W (R247). -/
def actFcvtSW (rd rs1 _rs2 : RegIx) (_f3 : BitVec 3) : Meaning :=
  unaryForm rd rs1 Fp.ofInt32
def execFcvtSW (rd rs1 rs2 : RegIx) (f3 : BitVec 3) (s : State) : Host.Outcome State Fault Refusal := s.execute (actFcvtSW rd rs1 rs2 f3)

end Sys2Proof.Machine
end

