-- ==== Sys2Proof/Machine/IntImm.lean ====
section
/-! DEFINITION. LUI, AUIPC and OP_IMM (R144 to R154). Nothing traps and no flag is written (R143). -/

namespace Sys2Proof.Machine

/-- LUI (R144): rd <- immU. -/
def actLui (rd : RegIx) (imm : BitVec 20) : Meaning :=
  upperForm rd fun _ => immU imm
def execLui (rd : RegIx) (imm : BitVec 20) (s : State) : Host.Outcome State Fault Refusal := s.execute (actLui rd imm)

/-- AUIPC (R145): rd <- pc + immU. -/
def actAuipc (rd : RegIx) (imm : BitVec 20) : Meaning :=
  upperForm rd fun pc => pc + immU imm
def execAuipc (rd : RegIx) (imm : BitVec 20) (s : State) : Host.Outcome State Fault Refusal := s.execute (actAuipc rd imm)

/-- ADDI (R146). -/
def actAddi (rd rs1 : RegIx) (imm : BitVec 12) : Meaning :=
  unaryForm rd rs1 fun _ a => a + sext12 imm
def execAddi (rd rs1 : RegIx) (imm : BitVec 12) (s : State) : Host.Outcome State Fault Refusal := s.execute (actAddi rd rs1 imm)

/-- SLTI (R147): signed comparison with the sign-extended immediate. -/
def actSlti (rd rs1 : RegIx) (imm : BitVec 12) : Meaning :=
  unaryForm rd rs1 fun _ a => boolWord (ltSigned a (sext12 imm))
def execSlti (rd rs1 : RegIx) (imm : BitVec 12) (s : State) : Host.Outcome State Fault Refusal := s.execute (actSlti rd rs1 imm)

/-- SLTIU (R148): the immediate is sign-extended, then compared as unsigned. -/
def actSltiu (rd rs1 : RegIx) (imm : BitVec 12) : Meaning :=
  unaryForm rd rs1 fun _ a => boolWord (ltUnsigned a (sext12 imm))
def execSltiu (rd rs1 : RegIx) (imm : BitVec 12) (s : State) : Host.Outcome State Fault Refusal := s.execute (actSltiu rd rs1 imm)

/-- XORI (R149). -/
def actXori (rd rs1 : RegIx) (imm : BitVec 12) : Meaning :=
  unaryForm rd rs1 fun _ a => a ^^^ sext12 imm
def execXori (rd rs1 : RegIx) (imm : BitVec 12) (s : State) : Host.Outcome State Fault Refusal := s.execute (actXori rd rs1 imm)

/-- ORI (R150). -/
def actOri (rd rs1 : RegIx) (imm : BitVec 12) : Meaning :=
  unaryForm rd rs1 fun _ a => a ||| sext12 imm
def execOri (rd rs1 : RegIx) (imm : BitVec 12) (s : State) : Host.Outcome State Fault Refusal := s.execute (actOri rd rs1 imm)

/-- ANDI (R151). -/
def actAndi (rd rs1 : RegIx) (imm : BitVec 12) : Meaning :=
  unaryForm rd rs1 fun _ a => a &&& sext12 imm
def execAndi (rd rs1 : RegIx) (imm : BitVec 12) (s : State) : Host.Outcome State Fault Refusal := s.execute (actAndi rd rs1 imm)

/-- SLLI (R152); the bits `hi` are ignored (R111). -/
def actSlli (rd rs1 : RegIx) (shamt : BitVec 5) (_hi : BitVec 7) : Meaning :=
  unaryForm rd rs1 fun _ a => a <<< shamt.toNat
def execSlli (rd rs1 : RegIx) (shamt : BitVec 5) (hi : BitVec 7) (s : State) : Host.Outcome State Fault Refusal := s.execute (actSlli rd rs1 shamt hi)

/-- SRLI (R153); the bits `hi` are ignored (R111). -/
def actSrli (rd rs1 : RegIx) (shamt : BitVec 5) (_hi : BitVec 6) : Meaning :=
  unaryForm rd rs1 fun _ a => a >>> shamt.toNat
def execSrli (rd rs1 : RegIx) (shamt : BitVec 5) (hi : BitVec 6) (s : State) : Host.Outcome State Fault Refusal := s.execute (actSrli rd rs1 shamt hi)

/-- SRAI (R154); the bits `hi` are ignored (R111). -/
def actSrai (rd rs1 : RegIx) (shamt : BitVec 5) (_hi : BitVec 6) : Meaning :=
  unaryForm rd rs1 fun _ a => a.sshiftRight shamt.toNat
def execSrai (rd rs1 : RegIx) (shamt : BitVec 5) (hi : BitVec 6) (s : State) : Host.Outcome State Fault Refusal := s.execute (actSrai rd rs1 shamt hi)

end Sys2Proof.Machine
end

