-- ==== Sys2Proof/Machine/IntReg.lean ====
section
/-! DEFINITION. OP, the integer members (R155 to R164). Nothing traps and no flag is written (R143). -/

namespace Sys2Proof.Machine

/-- ADD (R155): modulo 2^32. -/
def actAdd (rd rs1 rs2 : RegIx) : Meaning :=
  binaryForm rd rs1 rs2 fun _ a b => a + b
def execAdd (rd rs1 rs2 : RegIx) (s : State) : Host.Outcome State Fault Refusal := s.execute (actAdd rd rs1 rs2)

/-- SUB (R156): modulo 2^32. -/
def actSub (rd rs1 rs2 : RegIx) : Meaning :=
  binaryForm rd rs1 rs2 fun _ a b => a - b
def execSub (rd rs1 rs2 : RegIx) (s : State) : Host.Outcome State Fault Refusal := s.execute (actSub rd rs1 rs2)

/-- SLL (R157): the amount is the low five bits of x[rs2]. -/
def actSll (rd rs1 rs2 : RegIx) : Meaning :=
  binaryForm rd rs1 rs2 fun _ a b => a <<< (shamtOf b).toNat
def execSll (rd rs1 rs2 : RegIx) (s : State) : Host.Outcome State Fault Refusal := s.execute (actSll rd rs1 rs2)

/-- SLT (R158). -/
def actSlt (rd rs1 rs2 : RegIx) : Meaning :=
  binaryForm rd rs1 rs2 fun _ a b => boolWord (ltSigned a b)
def execSlt (rd rs1 rs2 : RegIx) (s : State) : Host.Outcome State Fault Refusal := s.execute (actSlt rd rs1 rs2)

/-- SLTU (R159). -/
def actSltu (rd rs1 rs2 : RegIx) : Meaning :=
  binaryForm rd rs1 rs2 fun _ a b => boolWord (ltUnsigned a b)
def execSltu (rd rs1 rs2 : RegIx) (s : State) : Host.Outcome State Fault Refusal := s.execute (actSltu rd rs1 rs2)

/-- XOR (R160). -/
def actXor (rd rs1 rs2 : RegIx) : Meaning :=
  binaryForm rd rs1 rs2 fun _ a b => a ^^^ b
def execXor (rd rs1 rs2 : RegIx) (s : State) : Host.Outcome State Fault Refusal := s.execute (actXor rd rs1 rs2)

/-- SRL (R161). -/
def actSrl (rd rs1 rs2 : RegIx) : Meaning :=
  binaryForm rd rs1 rs2 fun _ a b => a >>> (shamtOf b).toNat
def execSrl (rd rs1 rs2 : RegIx) (s : State) : Host.Outcome State Fault Refusal := s.execute (actSrl rd rs1 rs2)

/-- SRA (R162). -/
def actSra (rd rs1 rs2 : RegIx) : Meaning :=
  binaryForm rd rs1 rs2 fun _ a b => a.sshiftRight (shamtOf b).toNat
def execSra (rd rs1 rs2 : RegIx) (s : State) : Host.Outcome State Fault Refusal := s.execute (actSra rd rs1 rs2)

/-- OR (R163). -/
def actOr (rd rs1 rs2 : RegIx) : Meaning :=
  binaryForm rd rs1 rs2 fun _ a b => a ||| b
def execOr (rd rs1 rs2 : RegIx) (s : State) : Host.Outcome State Fault Refusal := s.execute (actOr rd rs1 rs2)

/-- AND (R164). -/
def actAnd (rd rs1 rs2 : RegIx) : Meaning :=
  binaryForm rd rs1 rs2 fun _ a b => a &&& b
def execAnd (rd rs1 rs2 : RegIx) (s : State) : Host.Outcome State Fault Refusal := s.execute (actAnd rd rs1 rs2)

end Sys2Proof.Machine
end

