-- ==== Sys2Proof/Machine/LoadStore.lean ====
section
/-! DEFINITION. Loads and stores (R210 to R220). Nothing traps; an access the memory rules give no meaning is refused (R211). -/

namespace Sys2Proof.Machine

/-- LB (R213). -/
def actLb (rd rs1 : RegIx) (imm : BitVec 12) : Meaning :=
  loadForm rd rs1 imm .byte sextByte
def execLb (rd rs1 : RegIx) (imm : BitVec 12) (s : State) : Host.Outcome State Fault Refusal := s.execute (actLb rd rs1 imm)

/-- LH (R214). -/
def actLh (rd rs1 : RegIx) (imm : BitVec 12) : Meaning :=
  loadForm rd rs1 imm .half sextHalf
def execLh (rd rs1 : RegIx) (imm : BitVec 12) (s : State) : Host.Outcome State Fault Refusal := s.execute (actLh rd rs1 imm)

/-- LW (R215). -/
def actLw (rd rs1 : RegIx) (imm : BitVec 12) : Meaning :=
  loadForm rd rs1 imm .word id
def execLw (rd rs1 : RegIx) (imm : BitVec 12) (s : State) : Host.Outcome State Fault Refusal := s.execute (actLw rd rs1 imm)

/-- LBU (R216). -/
def actLbu (rd rs1 : RegIx) (imm : BitVec 12) : Meaning :=
  loadForm rd rs1 imm .byte zextByte
def execLbu (rd rs1 : RegIx) (imm : BitVec 12) (s : State) : Host.Outcome State Fault Refusal := s.execute (actLbu rd rs1 imm)

/-- LHU (R217). -/
def actLhu (rd rs1 : RegIx) (imm : BitVec 12) : Meaning :=
  loadForm rd rs1 imm .half zextHalf
def execLhu (rd rs1 : RegIx) (imm : BitVec 12) (s : State) : Host.Outcome State Fault Refusal := s.execute (actLhu rd rs1 imm)

/-- SB (R218): bits 7 to 0 of x[rs2]. -/
def actSb (rs2 rs1 : RegIx) (imm : BitVec 12) : Meaning :=
  storeForm rs2 rs1 imm .byte
def execSb (rs2 rs1 : RegIx) (imm : BitVec 12) (s : State) : Host.Outcome State Fault Refusal := s.execute (actSb rs2 rs1 imm)

/-- SH (R219): bits 15 to 0 of x[rs2]. -/
def actSh (rs2 rs1 : RegIx) (imm : BitVec 12) : Meaning :=
  storeForm rs2 rs1 imm .half
def execSh (rs2 rs1 : RegIx) (imm : BitVec 12) (s : State) : Host.Outcome State Fault Refusal := s.execute (actSh rs2 rs1 imm)

/-- SW (R220): a pixel store at an aligned window address (R64). -/
def actSw (rs2 rs1 : RegIx) (imm : BitVec 12) : Meaning :=
  storeForm rs2 rs1 imm .word
def execSw (rs2 rs1 : RegIx) (imm : BitVec 12) (s : State) : Host.Outcome State Fault Refusal := s.execute (actSw rs2 rs1 imm)

end Sys2Proof.Machine
end

