-- ==== Sys2Proof/Machine/System.lean ====
section
/-! DEFINITION. MISC_MEM, SYSTEM and the unknown-word no-op (R280 to R293). -/

namespace Sys2Proof.Machine

/-- One word of a ring slot still to be written: the vm_id, a word, or a register's value, which is read first. -/
inductive SlotTask where
  | owner
  | put (f : SyscallField) (v : Word)
  | copy (f : SyscallField) (r : RegIx)
  deriving DecidableEq, Repr, Inhabited

/-- The next access of a task, on the slot of a counter value. -/
def SlotTask.event (ctr : Word) : SlotTask → Event
  | .owner => .ringOwner ctr
  | .put f v => .ringStore ctr f v
  | .copy _ r => .readReg r

/-- What is left of a task after its access has answered. -/
def SlotTask.after (answer : Word) : SlotTask → List SlotTask
  | .owner => []
  | .put _ _ => []
  | .copy f _ => [.put f answer]

/-- The accesses a task takes. -/
def SlotTask.size : SlotTask → Nat
  | .owner => 1
  | .put _ _ => 1
  | .copy _ _ => 2

/-- Perform tasks, their accesses in any order (R12, R326, log entry 22), then go on with `k`. `fuel` bounds the number of
accesses. -/
def fillSlot (ctr : Word) (k : Act) : Nat → List SlotTask → Act
  | 0, _ => k
  | fuel + 1, todo =>
    if todo.isEmpty then k
    else .op .choose fun n =>
      let (task, others) := chooseFrom todo n.toNat
      .op (task.event ctr) fun v => fillSlot ctr k fuel (others ++ task.after v)

/-- The record {vm_id, number, x10 to x15, 0} of a queued call (R283, R364). -/
def slotTasks (number : Word) : List SlotTask :=
  [.owner, .put .number number, .copy .arg0 10#5, .copy .arg1 11#5, .copy .arg2 12#5, .copy .arg3 13#5, .copy .arg4 14#5,
    .copy .arg5 15#5, .put .result 0#32]

/-- QueueSyscall(n): the syscall gate (R283, R406). The counter goes up, the number and the six arguments go into the slot
with result 0, word by word (R326), the VM waits for the host, and the executing unit stops. No register is written and no
mode changes. -/
def queueSyscall (n pc : Word) : Act :=
  .op .ringInc fun ctr =>
    fillSlot ctr (.op .setWaiting fun _ => .ret (pc + 4#32) true) ((slotTasks n).map SlotTask.size).sum (slotTasks n)

/-- Copy `n` bytes from `ptr` on to the console, then go on with `k` (R284). -/
def copyToConsole (k : Act) : Nat → Word → Act
  | 0, _ => k
  | n + 1, ptr =>
    .op (.load ptr .byte) fun b => .op (.append (b.setWidth 8)) fun _ => copyToConsole k n (ptr + 1#32)

/-- ConsoleWrite(): fd x10, ptr x11, len x12; a descriptor other than STDOUT_FD = 1 has no effect (R284). -/
def consoleWrite (pc : Word) : Act :=
  .op (.readReg 10#5) fun fd => .op (.readReg 11#5) fun ptr => .op (.readReg 12#5) fun len =>
    if fd = 1#32 then copyToConsole (fallThrough pc) len.toNat ptr else fallThrough pc

/-- FENCE (R280): no effect; it orders nothing (R76). -/
def actFence (_rd _rs1 : RegIx) (_imm : BitVec 12) : Meaning :=
  noEffectForm
def execFence (rd rs1 : RegIx) (imm : BitVec 12) (s : State) : Host.Outcome State Fault Refusal := s.execute (actFence rd rs1 imm)

/-- FENCE.I (R281): no effect. -/
def actFenceI (_rd _rs1 : RegIx) (_imm : BitVec 12) : Meaning :=
  noEffectForm
def execFenceI (rd rs1 : RegIx) (imm : BitVec 12) (s : State) : Host.Outcome State Fault Refusal := s.execute (actFenceI rd rs1 imm)

/-- ECALL (R282): number 64, SYS_CONSOLE_WRITE, is the console write; any other is queued for the host. -/
def actEcall : Meaning :=
  fun _ pc => .op (.readReg 17#5) fun n => if n = 64#32 then consoleWrite pc else queueSyscall n pc
def execEcall (s : State) : Host.Outcome State Fault Refusal := s.execute (actEcall)

/-- EBREAK (R285): raises the halt flag and stops the unit; next = pc + 4. -/
def actEbreak : Meaning :=
  fun _ pc => .op .raiseHalt fun _ => .ret (pc + 4#32) true
def execEbreak (s : State) : Host.Outcome State Fault Refusal := s.execute (actEbreak)

/-- CSRRW (R286, R287): no effect, rd unchanged. -/
def actCsrrw (_rd _rs1 : RegIx) (_csr : BitVec 12) : Meaning :=
  noEffectForm
def execCsrrw (rd rs1 : RegIx) (csr : BitVec 12) (s : State) : Host.Outcome State Fault Refusal := s.execute (actCsrrw rd rs1 csr)

/-- CSRRS (R286, R288): no effect, rd unchanged. -/
def actCsrrs (_rd _rs1 : RegIx) (_csr : BitVec 12) : Meaning :=
  noEffectForm
def execCsrrs (rd rs1 : RegIx) (csr : BitVec 12) (s : State) : Host.Outcome State Fault Refusal := s.execute (actCsrrs rd rs1 csr)

/-- CSRRC (R286, R289): no effect, rd unchanged. -/
def actCsrrc (_rd _rs1 : RegIx) (_csr : BitVec 12) : Meaning :=
  noEffectForm
def execCsrrc (rd rs1 : RegIx) (csr : BitVec 12) (s : State) : Host.Outcome State Fault Refusal := s.execute (actCsrrc rd rs1 csr)

/-- CSRRWI (R286, R291): no effect, rd unchanged. -/
def actCsrrwi (_rd _uimm : RegIx) (_csr : BitVec 12) : Meaning :=
  noEffectForm
def execCsrrwi (rd uimm : RegIx) (csr : BitVec 12) (s : State) : Host.Outcome State Fault Refusal := s.execute (actCsrrwi rd uimm csr)

/-- CSRRSI (R286, R292): no effect, rd unchanged. -/
def actCsrrsi (_rd _uimm : RegIx) (_csr : BitVec 12) : Meaning :=
  noEffectForm
def execCsrrsi (rd uimm : RegIx) (csr : BitVec 12) (s : State) : Host.Outcome State Fault Refusal := s.execute (actCsrrsi rd uimm csr)

/-- CSRRCI (R286, R293): no effect, rd unchanged. -/
def actCsrrci (_rd _uimm : RegIx) (_csr : BitVec 12) : Meaning :=
  noEffectForm
def execCsrrci (rd uimm : RegIx) (csr : BitVec 12) (s : State) : Host.Outcome State Fault Refusal := s.execute (actCsrrci rd uimm csr)

/-- NOP.UNKNOWN (R290): no effect, next = pc + 4. -/
def actUnknown (_w : Word) : Meaning :=
  noEffectForm
def execUnknown (w : Word) (s : State) : Host.Outcome State Fault Refusal := s.execute (actUnknown w)

end Sys2Proof.Machine
end

