-- ==== Sys2Proof/Machine/Micro.lean ====
section
/-! DEFINITION. The accesses of an instruction one at a time, for units that run side by side (R68, R74, R313). -/

namespace Sys2Proof.Machine

/-- The accesses of each instruction. `exec` performs them all at once (Laws: exec_eq_execute). -/
def meaningOf : Instr → Meaning
  | .lui rd imm => actLui rd imm
  | .auipc rd imm => actAuipc rd imm
  | .jal rd off => actJal rd off
  | .jalr rd rs1 imm => actJalr rd rs1 imm
  | .beq rs1 rs2 off => actBeq rs1 rs2 off
  | .bne rs1 rs2 off => actBne rs1 rs2 off
  | .blt rs1 rs2 off => actBlt rs1 rs2 off
  | .bge rs1 rs2 off => actBge rs1 rs2 off
  | .bltu rs1 rs2 off => actBltu rs1 rs2 off
  | .bgeu rs1 rs2 off => actBgeu rs1 rs2 off
  | .lb rd rs1 imm => actLb rd rs1 imm
  | .lh rd rs1 imm => actLh rd rs1 imm
  | .lw rd rs1 imm => actLw rd rs1 imm
  | .lbu rd rs1 imm => actLbu rd rs1 imm
  | .lhu rd rs1 imm => actLhu rd rs1 imm
  | .sb rs2 rs1 imm => actSb rs2 rs1 imm
  | .sh rs2 rs1 imm => actSh rs2 rs1 imm
  | .sw rs2 rs1 imm => actSw rs2 rs1 imm
  | .addi rd rs1 imm => actAddi rd rs1 imm
  | .slti rd rs1 imm => actSlti rd rs1 imm
  | .sltiu rd rs1 imm => actSltiu rd rs1 imm
  | .xori rd rs1 imm => actXori rd rs1 imm
  | .ori rd rs1 imm => actOri rd rs1 imm
  | .andi rd rs1 imm => actAndi rd rs1 imm
  | .slli rd rs1 shamt hi => actSlli rd rs1 shamt hi
  | .srli rd rs1 shamt hi => actSrli rd rs1 shamt hi
  | .srai rd rs1 shamt hi => actSrai rd rs1 shamt hi
  | .add rd rs1 rs2 => actAdd rd rs1 rs2
  | .sub rd rs1 rs2 => actSub rd rs1 rs2
  | .sll rd rs1 rs2 => actSll rd rs1 rs2
  | .slt rd rs1 rs2 => actSlt rd rs1 rs2
  | .sltu rd rs1 rs2 => actSltu rd rs1 rs2
  | .xor rd rs1 rs2 => actXor rd rs1 rs2
  | .srl rd rs1 rs2 => actSrl rd rs1 rs2
  | .sra rd rs1 rs2 => actSra rd rs1 rs2
  | .or rd rs1 rs2 => actOr rd rs1 rs2
  | .and rd rs1 rs2 => actAnd rd rs1 rs2
  | .fadd rd rs1 rs2 f3 => actFadd rd rs1 rs2 f3
  | .fsub rd rs1 rs2 f3 => actFsub rd rs1 rs2 f3
  | .fmul rd rs1 rs2 f3 => actFmul rd rs1 rs2 f3
  | .fdiv rd rs1 rs2 f3 => actFdiv rd rs1 rs2 f3
  | .fsqrt rd rs1 rs2 f3 => actFsqrt rd rs1 rs2 f3
  | .fmin rd rs1 rs2 f3 => actFmin rd rs1 rs2 f3
  | .fmax rd rs1 rs2 f3 => actFmax rd rs1 rs2 f3
  | .feq rd rs1 rs2 f3 => actFeq rd rs1 rs2 f3
  | .flt rd rs1 rs2 f3 => actFlt rd rs1 rs2 f3
  | .fle rd rs1 rs2 f3 => actFle rd rs1 rs2 f3
  | .fcvtWS rd rs1 rs2 f3 => actFcvtWS rd rs1 rs2 f3
  | .fcvtSW rd rs1 rs2 f3 => actFcvtSW rd rs1 rs2 f3
  | .fence rd rs1 imm => actFence rd rs1 imm
  | .fenceI rd rs1 imm => actFenceI rd rs1 imm
  | .ecall => actEcall
  | .ebreak => actEbreak
  | .csrrw rd rs1 csr => actCsrrw rd rs1 csr
  | .csrrs rd rs1 csr => actCsrrs rd rs1 csr
  | .csrrc rd rs1 csr => actCsrrc rd rs1 csr
  | .csrrwi rd uimm csr => actCsrrwi rd uimm csr
  | .csrrsi rd uimm csr => actCsrrsi rd uimm csr
  | .csrrci rd uimm csr => actCsrrci rd uimm csr
  | .unknown w => actUnknown w

/-- Bytes `off .. off+width-1` of `old` replaced by the same-numbered bytes of `v` (R68: the word a read-modify-write
store writes back). `at_` is the piece's place in the aligned word, `off` its place in the value. -/
def mergeWord (old v : Word) (at_ off width : Nat) : Word :=
  let mask : Word := (BitVec.allOnes 32 >>> (32 - 8 * width)) <<< (8 * at_)
  (old &&& ~~~mask) ||| (((v >>> (8 * off)) <<< (8 * at_)) &&& mask)

/-- The value the bytes of a misaligned load make (R62, R67). -/
def assembleBytes (done : List (Nat × Byte)) : Word :=
  done.foldl (fun acc x => acc ||| (BitVec.setWidth 32 x.2) <<< (8 * x.1)) 0#32

/-- The pieces (offset, width) a plain store is made of: an aligned one is a single piece, a misaligned one goes byte
by byte (R68). -/
def storePieces (a : Nat) (n : Size) : List (Nat × Nat) :=
  if isMisaligned a n then (List.range n.bytes).map (fun i => (i, 1)) else [(0, n.bytes)]

/-- What one access event of a unit comes to: the access is complete with its answer, or part of it is done. -/
inductive Progress where
  | complete (answer : Word)
  | partly (p : Part)
  deriving DecidableEq, Repr

/-- The width of a piece as an access size. -/
def sizeOfWidth (w : Nat) : Size := if w = 1 then .byte else if w = 2 then .half else .word

/-- One byte of a misaligned load, in a freely chosen order (R68). -/
def loadPiece (c : Ctx) (a : Nat) (todo : List Nat) (done : List (Nat × Byte)) (choice : Nat) : Progress :=
  let (off, rest) := chooseFrom todo choice
  let done' := (off, c.vm.mem.get (a + off)) :: done
  if rest.isEmpty then .complete (assembleBytes done') else .partly (.loading rest done')

/-- What is left of a store whose pieces still to write are `todo`. -/
def afterPieces (todo : List (Nat × Nat)) : Progress :=
  if todo.isEmpty then .complete 0#32 else .partly (.storing todo)

/-- One event of a plain sub-word or misaligned store: a freely chosen piece is written at once, or its containing
aligned word is read first, to be written back later (R68). -/
def storePiece (c : Ctx) (a : Nat) (v : Word) (todo : List (Nat × Nat)) (choice readFirst : Nat) : Progress × Ctx :=
  let ((off, width), rest) := chooseFrom todo choice
  if readFirst % 2 = 1 then
    (.partly (.merging rest off width (c.vm.mem.load ((a + off) / 4 * 4) .word)), c)
  else
    (afterPieces rest, { c with vm := c.vm.storeMem (a + off) (sizeOfWidth width) (v >>> (8 * off)) })

/-- The write half of a read-modify-write piece (R68). -/
def mergePiece (c : Ctx) (a : Nat) (v : Word) (todo : List (Nat × Nat)) (off width : Nat) (old : Word) : Progress × Ctx :=
  let at_ := (a + off) / 4 * 4
  (afterPieces todo, { c with vm := c.vm.storeMem at_ .word (mergeWord old v (a + off - at_) off width) })

/-- One event of a load: a misaligned plain load goes byte by byte, any other is performed whole (R68). -/
def loadEvent (cfg : Config) (c : Ctx) (a : Word) (n : Size) (part : Part) (sched : Nat) :
    Except Refusal (Progress × Ctx × Nat) :=
  match part with
  | .loading todo done => .ok (loadPiece c a.toNat todo done (Config.schedule sched), c, sched + 1)
  | _ =>
    if readKind cfg a.toNat n = .plain && isMisaligned a.toNat n then
      .ok (loadPiece c a.toNat (List.range n.bytes) [] (Config.schedule sched), c, sched + 1)
    else
      match memRead cfg c a n with
      | .ok (v, c') => .ok (.complete v, c', sched)
      | .error r => .error r

/-- One event of a store: an aligned word, a pixel store and what is refused are performed whole; a plain sub-word or
misaligned store goes piece by piece (R68). -/
def storeEvent (cfg : Config) (c : Ctx) (a : Word) (n : Size) (v : Word) (part : Part) (sched : Nat) :
    Except Refusal (Progress × Ctx × Nat) :=
  match part with
  | .merging todo off width old =>
    let r := mergePiece c a.toNat v todo off width old
    .ok (r.1, r.2, sched)
  | .storing todo =>
    let r := storePiece c a.toNat v todo (Config.schedule sched) (Config.schedule (sched + 1))
    .ok (r.1, r.2, sched + 2)
  | _ =>
    if writeKind cfg a.toNat n = .plain && (isMisaligned a.toNat n || decide (n ≠ .word)) then
      let r := storePiece c a.toNat v (storePieces a.toNat n) (Config.schedule sched) (Config.schedule (sched + 1))
      .ok (r.1, r.2, sched + 2)
    else
      match memWrite cfg c a n v with
      | .ok c' => .ok (.complete 0#32, c', sched)
      | .error r => .error r

/-- One event of one access. Everything but a load or a store is atomic (R74, R326). A choice takes the next
free number. -/
def accessEvent (cfg : Config) (e : Event) (c : Ctx) (part : Part) (sched : Nat) :
    Except Refusal (Progress × Ctx × Nat) :=
  match e with
  | .load a n => loadEvent cfg c a n part sched
  | .store a n v => storeEvent cfg c a n v part sched
  | .choose => .ok (.complete (BitVec.ofNat 32 (Config.schedule sched)), c, sched + 1)
  | e =>
    match e.perform cfg c with
    | .ok (v, c') => .ok (.complete v, c', sched)
    | .error r => .error r

end Sys2Proof.Machine
end

