-- ==== Sys2Proof/Machine/Profiler.lean ====
section
/-! DEFINITION. The per-address execution profiler (R371 to R375). -/

namespace Sys2Proof.Machine

/-- The slot of an address: address mod 256 (R371, R372). -/
def profSlot (a : Word) : Fin 256 := ⟨a.toNat % 256, Nat.mod_lt _ (by decide)⟩

/-- A slot after one more execution at `a`: the count goes up modulo 2^32, and the address is recorded only when the
count was 0 (R372). -/
def ProfEntry.record (e : ProfEntry) (a : Word) : ProfEntry :=
  { address := if e.count = 0#32 then a else e.address, count := e.count + 1#32 }

/-- ProfRecord (R372). -/
def VM.profRecord (vm : VM) (a : Word) : VM :=
  { vm with prof := vm.prof.set (profSlot a) ((vm.prof[profSlot a]).record a) }

/-- Hot: count >= HOT_THRESHOLD (R373). -/
def ProfEntry.hot (cfg : Config) (e : ProfEntry) : Bool := decide (cfg.hotThreshold ≤ e.count.toNat)

/-- ResetProf (R374). -/
def VM.resetProf (vm : VM) : VM := { vm with prof := Vector.replicate 256 ProfEntry.zero }

end Sys2Proof.Machine
end

