-- ==== Sys2Proof/Machine/Scheduler.lean ====
section
/-! DEFINITION. The execution scheduler (R300 to R326). A tick with N_UNITS = 1 is sequential and nothing can come
between the lines of its loop (R320), so one step of the machine is one whole iteration, with `exec`. With
N_UNITS > 1 one step is one line of one unit's loop (R313), or one access of its instruction (R74); which unit moves
is the free choice `turn` (R325). -/

namespace Sys2Proof.Machine

/-! ### Parts of the loop, on the VM of the tick -/

/-- GUARD_FACTOR (R5). -/
def guardFactor : Nat := 2

namespace VM
/-- The test at the top of the loop (R303). -/
def mayBegin (vm : VM) : Bool :=
  !vm.tick.haltFlag && !vm.tick.abortFlag && decide (vm.vmStatus = .running)
    && decide (vm.tick.executed < vm.tick.budget.toNat)

/-- The unit goes to this line of its loop. -/
def goto (vm : VM) (u : Nat) (p : Phase) : VM := vm.setUnit u { vm.unit u with phase := p }

/-- Take or release the lock (R304, R305, R306). -/
def setLock (vm : VM) (b : Bool) : VM := { vm with tick := { vm.tick with lock := b } }

/-- Raise the halt flag (R305, R285). -/
def raiseHalt (vm : VM) : VM := { vm with tick := { vm.tick with haltFlag := true } }

/-- The claim: the unit takes the PC, the PC advances by 4 modulo 2^32, the lock is released (R27, R306). -/
def claim (vm : VM) (u : Nat) : VM :=
  ((vm.setUnit u { vm.unit u with phase := .fetch, ia := vm.cpu.pc }).setPc (vm.cpu.pc + 4#32)).setLock false

/-- R309: the computed next-address reaches the PC only when N_UNITS = 1. -/
def commitNext (cfg : Config) (vm : VM) (u : Nat) : VM :=
  if cfg.nUnits = 1 then vm.setPc (vm.unit u).next else vm

/-- R310. -/
def countOne (vm : VM) : VM := { vm with tick := { vm.tick with executed := vm.tick.executed + 1 } }

/-- The runaway guard's condition (R312); the product does not wrap. -/
def guardFires (vm : VM) : Bool := decide (guardFactor * vm.tick.budget.toNat < vm.tick.executed)

/-- The end of an iteration: the guard aborts the tick, an instruction that stops its unit leaves the loop, otherwise
the unit begins again (R312, R308). -/
def endIteration (vm : VM) (u : Nat) : VM :=
  if vm.guardFires then (({ vm with tick := { vm.tick with abortFlag := true } } : VM)).goto u .left
  else if (vm.unit u).stop then vm.goto u .left
  else vm.goto u .top

/-- What follows an executed instruction in the same iteration (R309 to R312, R308). -/
def finish (cfg : Config) (vm : VM) (u : Nat) : VM :=
  (((vm.commitNext cfg u).countOne).profRecord (vm.unit u).ia).endIteration u

/-- Reconcile and publish (R318, R319). The PC is already the published pc (log entry 4). No unit's state survives the
tick (R41). -/
def endTick (vm : VM) : VM :=
  { vm with
    cpu := { vm.cpu with
      status := if vm.tick.haltFlag then ⟨false, true, false⟩ else ⟨true, false, false⟩
      instrCount := vm.cpu.instrCount + BitVec.ofNat 32 vm.tick.executed
      cycleCount := vm.cpu.cycleCount + BitVec.ofNat 32 vm.tick.executed }
    vmStatus := if vm.tick.haltFlag then .halted else vm.vmStatus
    tick := { vm.tick with units := [] } }

/-- Tick start (R301, R433): the PC is the resume PC, the per-tick state is cleared, N_UNITS units begin. -/
def startTick (cfg : Config) (vm : VM) (budget resumePc : Word) : VM :=
  { vm with
    cpu := { vm.cpu with pc := resumePc }
    tick :=
      { lock := false, haltFlag := false, abortFlag := false, executed := 0, budget := budget, resumePc := resumePc,
        units := List.replicate cfg.nUnits ExecUnit.fresh, turn := 0 } }
end VM

/-- A PC a tick may have: a multiple of 4, or HALT_PC (R202, R301). -/
def legalPc (cfg : Config) (pc : Word) : Bool := decide (pc.toNat % 4 = 0) || decide (pc = cfg.haltPc)

/-- The tick is over (R324). -/
def State.endTick (s : State) : State := { s.withVm s.vm.endTick with running := false }

/-! ### Fetching an instruction -/

/-- The fetch of a word that the configuration decodes (R78, R110, U1). -/
def fetchInstr (cfg : Config) (vm : VM) (ia : Word) : Except Refusal Word :=
  match fetchWord cfg vm ia with
  | .error r => .error r
  | .ok w => if decodable cfg w then .ok w else .error .looseDecode

/-! ### N_UNITS = 1: one instruction a step -/

/-- The unit claims the instruction it is about to execute. -/
def State.claim (s : State) : State :=
  let vm := s.vm
  s.withVm (({ vm with tick := { vm.tick with turn := 0 } } : VM).claim 0)

/-- What the scheduler does after the instruction. -/
def State.finish (s : State) : State := s.withVm (s.vm.finish s.cfg 0)

/-- Claim, fetch, decode, execute, commit, count, profile, guard (R306 to R312). -/
def runInstruction (s : State) : Host.Outcome State Fault Refusal :=
  match fetchInstr s.cfg s.vm s.vm.cpu.pc with
  | .error r => .refused r
  | .ok w =>
    match exec (decodeWord s.cfg.fpCodes w) s.claim with
    | .next s' => .next s'.finish
    | .fault f => .fault f
    | .refused r => .refused r

/-- One iteration of the only unit's loop (R313, R320). -/
def iterate (s : State) : Host.Outcome State Fault Refusal :=
  let vm := s.vm
  if !vm.mayBegin || vm.tick.lock then .next (s.withVm (vm.goto 0 .left))
  else if vm.cpu.pc = s.cfg.haltPc then .next (s.withVm (vm.raiseHalt.goto 0 .left))
  else runInstruction s

/-- A step of a tick with N_UNITS = 1: an iteration while the unit is in its loop, then the end of the tick. -/
def singleStep (s : State) : Host.Outcome State Fault Refusal :=
  match s.vm.tick.units with
  | [] => .next s.endTick
  | x :: _ => if x.phase = .left then .next s.endTick else iterate s

/-! ### N_UNITS > 1: one line of one unit's loop a step -/

/-- What a unit's step works on, and the number of the next free choice. -/
abbrev UnitOutcome := Host.Outcome (Ctx × Nat) Fault Refusal

/-- A unit's attempt at the lock: it takes the lock, or counts a failed attempt and abandons past LOCK_RETRIES
(R304). -/
def VM.attemptLock (cfg : Config) (vm : VM) (u : Nat) : VM :=
  if vm.tick.lock then
    let x := vm.unit u
    let x' := { x with retries := x.retries + 1 }
    vm.setUnit u (if cfg.lockRetries < x.retries + 1 then { x' with phase := .left } else x')
  else (vm.setLock true).goto u .locked

/-- Under the lock: the sentinel test, then the claim (R305, R306). -/
def lockedStep (cfg : Config) (c : Ctx) (n u : Nat) : UnitOutcome :=
  let vm := c.vm
  if vm.cpu.pc = cfg.haltPc then .next ({ c with vm := ((vm.setLock false).raiseHalt).goto u .left }, n)
  else .next ({ c with vm := vm.claim u }, n)

/-- The fetch of the claimed address (R307, R78). -/
def fetchStep (cfg : Config) (c : Ctx) (n u : Nat) : UnitOutcome :=
  let x := c.vm.unit u
  match fetchInstr cfg c.vm x.ia with
  | .error r => .refused r
  | .ok w => .next ({ c with vm := c.vm.setUnit u { x with phase := .run, word := w, got := [], part := .none } }, n)

/-- One access event of the instruction, or its end (R307, R74). -/
def accessStep (cfg : Config) (c : Ctx) (n u : Nat) : UnitOutcome :=
  let x := c.vm.unit u
  match (meaningOf (decodeWord cfg.fpCodes x.word) cfg x.ia).after x.got with
  | .ret next stop => .next ({ c with vm := c.vm.setUnit u { x with phase := .commit, next := next, stop := stop } }, n)
  | .op e _ =>
    match accessEvent cfg e c x.part n with
    | .error r => .refused r
    | .ok (.complete v, c', n') =>
      .next ({ c' with vm := c'.vm.setUnit u { x with got := x.got ++ [v], part := .none } }, n')
    | .ok (.partly p, c', n') => .next ({ c' with vm := c'.vm.setUnit u { x with part := p } }, n')

/-- One step of unit `u`: the line of R313 its phase names. -/
def unitStep (cfg : Config) (c : Ctx) (n u : Nat) : UnitOutcome :=
  let vm := c.vm
  match (vm.unit u).phase with
  | .top =>
    .next ({ c with vm :=
      if vm.mayBegin then vm.setUnit u { vm.unit u with phase := .acquire, retries := 0 } else vm.goto u .left }, n)
  | .acquire => .next ({ c with vm := vm.attemptLock cfg u }, n)
  | .locked => lockedStep cfg c n u
  | .fetch => fetchStep cfg c n u
  | .run => accessStep cfg c n u
  | .commit => .next ({ c with vm := (vm.commitNext cfg u).goto u .count }, n)
  | .count => .next ({ c with vm := vm.countOne.goto u .profile }, n)
  | .profile => .next ({ c with vm := (vm.profRecord (vm.unit u).ia).goto u .guard }, n)
  | .guard => .next ({ c with vm := vm.endIteration u }, n)
  | .left => .next (c, n)

/-- The units still in their loop. -/
def VM.liveUnits (vm : VM) : List Nat :=
  (List.range vm.tick.units.length).filter (fun u => decide ((vm.unit u).phase ≠ .left))

/-- Choose the unit that moves next (R325). -/
def VM.setTurn (vm : VM) (t : Nat) : VM := { vm with tick := { vm.tick with turn := t } }

/-- A step of a tick with N_UNITS > 1: the chosen unit performs its next line; when every unit has left its loop the
barrier opens and the tick ends (R316). -/
def multiStep (s : State) : Host.Outcome State Fault Refusal :=
  match s.vm.liveUnits with
  | [] => .next s.endTick
  | us =>
    match unitStep s.cfg s.ctx s.sched (us.getD (s.vm.tick.turn % us.length) 0) with
    | .next (c, n) => .next { s.withCtx { c with vm := c.vm.setTurn (Config.schedule n) } with sched := n + 1 }
    | .fault f => .fault f
    | .refused r => .refused r

/-- A step while a tick is in progress. With a PC that no tick may have there is none, the end of the tick included (R202,
R403, U5). Single-unit mode is exactly N_UNITS = 1 (R309, D16). -/
def tickStep (s : State) : Host.Outcome State Fault Refusal :=
  if !legalPc s.cfg s.vm.cpu.pc then .fault .misalignedPc
  else if s.cfg.nUnits = 1 then singleStep s else multiStep s

end Sys2Proof.Machine
end

