-- ==== Sys2Proof/Machine/HostOps.lean ====
section
/-! DEFINITION. The host's operations, performed between ticks (R360 to R382, R430 to R435). -/

namespace Sys2Proof.Machine

/-- The status bitmask: bit 0 running, bit 1 halted, bit 2 error (R31). -/
def CpuStatus.toMask (c : CpuStatus) : BitVec 3 :=
  BitVec.ofBool c.error ++ BitVec.ofBool c.halted ++ BitVec.ofBool c.running

/-- R34: RUNNING 0, WAITING_SYSCALL 1, HALTED 2. -/
def VmStatus.code : VmStatus → Nat
  | .running => 0
  | .waitingSyscall => 1
  | .halted => 2

namespace State
/-- A VM by its id. -/
def vmAt (s : State) (v : VmId) : VM := s.vms[v]
/-- Replace a VM. -/
def withVmAt (s : State) (v : VmId) (vm : VM) : State := { s with vms := s.vms.set v vm }
/-- Hand a result to the host. -/
def reply (s : State) (r : HostReply) : State := { s with hostOut := s.hostOut ++ [r] }
end State

/-- LoadImage: raw bytes at IMAGE_BASE (R432). -/
def loadImage (s : State) (v : VmId) (bytes : List Byte) : Host.Outcome State Fault Refusal :=
  if s.cfg.memSize < s.cfg.imageBase + bytes.length then .refused .hostOutOfRange
  else
    let vm := s.vmAt v
    .next (s.withVmAt v { vm with mem := vm.mem.setBytes s.cfg.imageBase bytes })

/-- Tick(v, budget, resume_pc): nothing at all when the VM is not RUNNING (R302), otherwise tick start (R301). -/
def beginTick (s : State) (v : VmId) (budget resumePc : Word) : Host.Outcome State Fault Refusal :=
  let vm := s.vmAt v
  if vm.vmStatus ≠ .running then .next s
  else if !legalPc s.cfg resumePc then .refused .badResumePc
  else .next { s.withVmAt v (vm.startTick s.cfg budget resumePc) with running := true, cur := v }

/-- HostRead (R83): the bytes of `mem` itself, aligned or not (log entry 20). -/
def hostRead (s : State) (v : VmId) (a : Word) (n : Size) : Host.Outcome State Fault Refusal :=
  if s.cfg.memSize < a.toNat + n.bytes then .refused .hostOutOfRange
  else .next (s.reply (.value ((s.vmAt v).mem.load a.toNat n)))

/-- HostWrite (R83). -/
def hostWrite (s : State) (v : VmId) (a : Word) (n : Size) (w : Word) : Host.Outcome State Fault Refusal :=
  if s.cfg.memSize < a.toNat + n.bytes then .refused .hostOutOfRange
  else .next (s.withVmAt v ((s.vmAt v).storeMem a.toNat n w))

/-- Check(req): the class, counted (R348). No core state changes (R350). -/
def checkRequest (s : State) (q : ProtRequest) : State :=
  let r := classify s.cfg s.regions q
  ({ s with counters := s.counters.count r }).reply (.checked r)

/-- One operation of the host (R361). -/
def hostOp (s : State) : HostOp → Host.Outcome State Fault Refusal
  | .createVM v => .next (s.withVmAt v (VM.reset s.cfg.consoleCap))
  | .teardown _ => .next s
  | .loadImage v bytes => Sys2Proof.Machine.loadImage s v bytes
  | .tick v budget resumePc => beginTick s v budget resumePc
  | .snapshot v => .next (s.reply (.cpuState (s.vmAt v).cpu))
  | .readVmStatus v => .next (s.reply (.vmStatus (s.vmAt v).vmStatus))
  | .setVmStatus v st => .next (s.withVmAt v { s.vmAt v with vmStatus := st })
  | .readRing v slot => .next (s.reply (.ringEntry ((s.vmAt v).ring[slot])))
  | .readRingCtr v => .next (s.reply (.ringCtr (s.vmAt v).ringCtr))
  | .writeResult v slot w =>
    let vm := s.vmAt v
    .next (s.withVmAt v { vm with ring := vm.ring.set slot { vm.ring[slot] with result := w } })
  | .drainConsole v =>
    let vm := s.vmAt v
    .next ((s.reply (.consoleBytes (vm.console.take vm.consoleLen))).withVmAt v { vm with consoleLen := 0 })
  | .readProf v slot =>
    let e := (s.vmAt v).prof[slot]
    .next (s.reply (.profEntry e (e.hot s.cfg)))
  | .resetProf v => .next (s.withVmAt v (s.vmAt v).resetProf)
  | .hostRead v a n => Sys2Proof.Machine.hostRead s v a n
  | .hostWrite v a n w => Sys2Proof.Machine.hostWrite s v a n w
  | .setRegions table =>
    if s.cfg.maxRegions < table.length then .refused .tooManyRegions else .next { s with regions := table }
  | .readRegions => .next (s.reply (.regions s.regions))
  | .check q => .next (checkRequest s q)
  | .readCounters => .next (s.reply (.counters s.counters))

/-- A step while no tick runs: the oldest pending operation of the host; with none pending the machine waits
(R360, log entry 12). -/
def hostStep (s : State) : Host.Outcome State Fault Refusal :=
  match s.hostIn with
  | [] => .next s
  | op :: rest => hostOp { s with hostIn := rest } op

end Sys2Proof.Machine
end

