-- ==== Sys2Proof/Machine/Loader.lean ====
section
/-! DEFINITION. How an instruction is placed so that the next step runs it (log entry 14). -/

namespace Sys2Proof.Machine

/-- A single-unit tick is in progress and its unit's next step fetches at the PC. -/
def State.readyToFetch (s : State) : Bool :=
  let vm := s.vm
  s.running && decide (s.cfg.nUnits = 1) && decide (vm.tick.units.head?.any (fun x => x.phase ≠ .left))
    && vm.mayBegin && !vm.tick.lock && decide (vm.cpu.pc ≠ s.cfg.haltPc) && decide (vm.cpu.pc.toNat % 4 = 0)
    && decide (vm.cpu.pc.toNat + 4 ≤ s.cfg.memSize) && !touchesWindow s.cfg vm.cpu.pc.toNat .word

/-- A single-unit tick on the current VM, running, from address 0, whose four bytes are plain memory in every
configuration (R69) and no register (R21). -/
def State.startSingle (s : State) : State :=
  let s1 : State := { s with cfg := { s.cfg with nUnits := 1 }, running := true }
  s1.withVm (({ s1.vm with vmStatus := .running } : VM).startTick s1.cfg 0xFFFFFFFF#32 0#32)

/-- Store a word where the PC of the current VM points. -/
def State.pokeAtPc (s : State) (w : Word) : State := s.withVm (s.vm.storeMem s.vm.cpu.pc.toNat .word w)

/-- The instruction word placed where the next step fetches. -/
def State.placeWord (s : State) (w : Word) : State :=
  if s.readyToFetch then s.pokeAtPc w else s.startSingle.pokeAtPc w

end Sys2Proof.Machine
end

