-- ==== Sys2Proof/Machine/Step.lean ====
section
/-! DEFINITION. One step of the machine: of the tick in progress, or of the host between ticks (R300, R360). -/

namespace Sys2Proof.Machine

/-- One step. -/
def step (s : State) : Host.Outcome State Fault Refusal := if s.running then tickStep s else hostStep s

/-- `s` with the instruction whose bits are `w` (bits above `nbits` zero) stored where step fetches its next
instruction (log entry 14). -/
def State.withFetchWord (s : State) (nbits w : Nat) : State := s.placeWord (BitVec.ofNat 32 (w % 2 ^ nbits))

end Sys2Proof.Machine
end

