-- ==== Sys2Proof/Safety.lean ====
section
/-! DEFINITION. What a well-formed state is, and the invariants of the scheduler, in the terms the statements use. -/

namespace Sys2Proof.Machine

/-! ### Counting units -/

/-- How many units of a VM stand at a line of the loop that `p` picks. -/
def VM.countUnits (vm : VM) (p : Phase → Bool) : Nat := vm.tick.units.countP (fun x => p x.phase)

/-- The unit has claimed an address and not yet counted the instruction (R306, R310). -/
def Phase.claimed : Phase → Bool
  | .fetch | .run | .commit | .count => true
  | .top | .acquire | .locked | .profile | .guard | .left => false

/-- The unit has passed the test of R303 and not yet counted an instruction since. -/
def Phase.pending : Phase → Bool
  | .acquire | .locked | .fetch | .run | .commit | .count => true
  | .top | .profile | .guard | .left => false

/-- The unit is executing a claimed instruction, up to its profile record and guard (R306 to R312). -/
def Phase.executing : Phase → Bool
  | .fetch | .run | .commit | .count | .profile | .guard => true
  | .top | .acquire | .locked | .left => false

/-- The unit holds the lock (R37). -/
def Phase.holdsLock : Phase → Bool
  | .locked => true
  | .top | .acquire | .fetch | .run | .commit | .count | .profile | .guard | .left => false

/-- Addresses claimed so far in the tick: the instructions counted and those in flight (R306, R319). -/
def VM.claims (vm : VM) : Nat := vm.tick.executed + vm.countUnits Phase.claimed

/-! ### Accesses in progress -/

/-- What is left of the instruction a unit executes. -/
def ExecUnit.rest (cfg : Config) (x : ExecUnit) : Act :=
  (meaningOf (decodeWord cfg.fpCodes x.word) cfg x.ia).after x.got

/-- The access a unit performs next, if its instruction has one left. -/
def ExecUnit.event (cfg : Config) (x : ExecUnit) : Option Event :=
  match x.rest cfg with
  | .op e _ => some e
  | .ret _ _ => none

/-- The unit performs a plain store, and these pieces (offset, width) of it, at least one, lie inside it. -/
def ExecUnit.piecesOk (cfg : Config) (x : ExecUnit) (pieces : List (Nat × Nat)) : Bool :=
  match x.event cfg with
  | some (.store a n _) =>
    writeKind cfg a.toNat n = .plain && !pieces.isEmpty
      && pieces.all (fun p => decide (p.1 + (sizeOfWidth p.2).bytes ≤ n.bytes))
  | _ => false

/-- A load or store in progress is the unit's next access, and the pieces of a store lie inside it (R68). -/
def ExecUnit.partOk (cfg : Config) (x : ExecUnit) : Bool :=
  match x.part with
  | .none => true
  | .loading _ _ =>
    match x.event cfg with
    | some (.load _ _) => true
    | _ => false
  | .storing todo => x.piecesOk cfg todo
  | .merging todo off width _ => x.piecesOk cfg ((off, width) :: todo)

/-! ### Well-formed states -/

/-- What the spec says of one VM's state. -/
structure VM.Wf (cfg : Config) (vm : VM) : Prop where
  /-- memory keeps its canonical form -/
  memForm : vm.mem.wf = true
  /-- no byte beyond MEM_SIZE exists (R60) -/
  memBelow : vm.mem.below cfg.memSize = true
  /-- the console buffer has CONSOLE_CAP bytes (R43) -/
  consoleSize : vm.console.length = cfg.consoleCap
  /-- console_len is 0 to CONSOLE_CAP (R368) -/
  consoleFill : vm.consoleLen ≤ cfg.consoleCap
  /-- status.error is never set (R32, R402) -/
  noError : vm.cpu.status.error = false
  /-- every pixel transaction lies in the framebuffer (R70) -/
  pixelsIn : ∀ p ∈ vm.pixels, p.col < cfg.fbWidth ∧ p.row < cfg.fbHeight
  /-- no more than N_UNITS units exist (R300) -/
  unitCount : vm.tick.units.length ≤ cfg.nUnits
  /-- accesses in progress belong to the instructions the units execute -/
  parts : ∀ x ∈ vm.tick.units, x.partOk cfg = true ∧ (x.phase ≠ .run → x.part = .none)
  /-- in single-unit mode the unit stands between iterations and the lock is free (R320) -/
  single : cfg.nUnits = 1 → vm.tick.lock = false ∧ ∀ x ∈ vm.tick.units, x.phase = .top ∨ x.phase = .left

/-- What the spec says of the whole state. -/
structure State.Wf (s : State) : Prop where
  config : s.cfg.ok = true
  vms : ∀ v : VmId, (s.vms[v]).Wf s.cfg
  /-- region_count is at most MAX_REGIONS (R340) -/
  regionCount : s.regions.length ≤ s.cfg.maxRegions
  /-- N_UNITS units run the tick (R300) -/
  dispatched : s.running = true → s.vm.tick.units.length = s.cfg.nUnits

/-! ### The scheduler's invariants -/

/-- The lock is held exactly while one unit stands between taking and releasing it, and never by two (R9, R37, R306). -/
def VM.LockExclusive (vm : VM) : Prop := vm.countUnits Phase.holdsLock = if vm.tick.lock then 1 else 0

/-- The lock of every VM is exclusive. -/
def State.LockExclusive (s : State) : Prop := ∀ v : VmId, (s.vms[v]).LockExclusive

/-- At most budget + N_UNITS - 1 instructions are executed in a tick, those in flight included (R312, R322). -/
def State.WithinBudget (s : State) : Prop :=
  ∀ v : VmId, (s.vms[v]).tick.executed + (s.vms[v]).countUnits Phase.pending
    ≤ (s.vms[v]).tick.budget.toNat + (s.cfg.nUnits - 1)

/-- The addresses the executing units have claimed. -/
def VM.claimedAddresses (vm : VM) : List Word :=
  (vm.tick.units.filter (fun x => x.phase.executing)).map ExecUnit.ia

/-- In multi-unit mode the PC has moved by 4 for every claim, and the addresses being executed are different ones
among resume_pc, resume_pc + 4, and so on (R306, R319, R322). The second part is for fewer than 2^30 claims, after
which the PC has gone round. -/
structure VM.ClaimsInOrder (vm : VM) : Prop where
  pc : vm.cpu.pc = vm.tick.resumePc + 4#32 * BitVec.ofNat 32 vm.claims
  distinct : vm.claims < 2 ^ 30 → vm.claimedAddresses.Nodup ∧
    ∀ a ∈ vm.claimedAddresses, ∃ j < vm.claims, a = vm.tick.resumePc + 4#32 * BitVec.ofNat 32 j

/-- Every VM's claims are in order. -/
def State.ClaimsInOrder (s : State) : Prop := ∀ v : VmId, (s.vms[v]).ClaimsInOrder

/-- Something stops the tick: the halt flag, or the VM is no longer RUNNING (R303). -/
def VM.stopped (vm : VM) : Prop := vm.tick.haltFlag = true ∨ vm.vmStatus ≠ .running

/-- The unit's instruction stops its unit, and nothing of it is left but what the scheduler does (R308). -/
def ExecUnit.stopping (cfg : Config) (x : ExecUnit) : Prop :=
  ((x.phase = .commit ∨ x.phase = .count ∨ x.phase = .profile ∨ x.phase = .guard) ∧ x.stop = true)
    ∨ (x.phase = .run ∧ ∃ next, x.rest cfg = .ret next true)

/-- A tick that nothing stops goes on until the budget is used (R322, R324). -/
structure VM.Progress (cfg : Config) (vm : VM) : Prop where
  /-- while nothing stops it and the budget is not used, some unit is in its loop -/
  alive : ¬ vm.stopped → vm.tick.executed < vm.tick.budget.toNat → ∃ x ∈ vm.tick.units, x.phase ≠ .left
  /-- a unit that is about to stop has raised the halt flag or suspended the VM -/
  stops : ∀ x ∈ vm.tick.units, x.stopping cfg → vm.stopped
  /-- the guard fires only past twice the budget (R312) -/
  aborts : vm.tick.abortFlag = true → guardFactor * vm.tick.budget.toNat < vm.tick.executed

/-- The running tick makes progress. -/
def State.Progress (s : State) : Prop := s.running = true → s.vm.Progress s.cfg

/-- The profiler's slots whose number is not a multiple of 4 are zero (R375). -/
def VM.ProfAligned (vm : VM) : Prop :=
  (∀ i : Fin 256, i.val % 4 ≠ 0 → vm.prof[i] = ProfEntry.zero)
    ∧ ∀ x ∈ vm.tick.units, x.phase.executing = true → x.ia.toNat % 4 = 0

/-- Every VM's profiler is so. -/
def State.ProfAligned (s : State) : Prop := ∀ v : VmId, (s.vms[v]).ProfAligned

/-! ### What an instruction may write -/

/-- What an instruction reaches beside its own unit: registers only (or nothing), a load, a store, the syscall gate or
console, the halt flag. -/
inductive Shape where
  | register
  | load
  | store
  | ecall
  | ebreak
  deriving DecidableEq, Repr

/-- The shape of each instruction. -/
def shapeOf : Instr → Shape
  | .lb _ _ _ | .lh _ _ _ | .lw _ _ _ | .lbu _ _ _ | .lhu _ _ _ => .load
  | .sb _ _ _ | .sh _ _ _ | .sw _ _ _ => .store
  | .ecall => .ecall
  | .ebreak => .ebreak
  | .lui _ _ | .auipc _ _ | .jal _ _ | .jalr _ _ _ | .beq _ _ _ | .bne _ _ _ | .blt _ _ _ | .bge _ _ _ |
    .bltu _ _ _ | .bgeu _ _ _ | .addi _ _ _ | .slti _ _ _ | .sltiu _ _ _ | .xori _ _ _ | .ori _ _ _ |
    .andi _ _ _ | .slli _ _ _ _ | .srli _ _ _ _ | .srai _ _ _ _ | .add _ _ _ | .sub _ _ _ | .sll _ _ _ |
    .slt _ _ _ | .sltu _ _ _ | .xor _ _ _ | .srl _ _ _ | .sra _ _ _ | .or _ _ _ | .and _ _ _ | .fadd _ _ _ _ |
    .fsub _ _ _ _ | .fmul _ _ _ _ | .fdiv _ _ _ _ | .fsqrt _ _ _ _ | .fmin _ _ _ _ | .fmax _ _ _ _ |
    .feq _ _ _ _ | .flt _ _ _ _ | .fle _ _ _ _ | .fcvtWS _ _ _ _ | .fcvtSW _ _ _ _ | .fence _ _ _ |
    .fenceI _ _ _ | .csrrw _ _ _ | .csrrs _ _ _ | .csrrc _ _ _ | .csrrwi _ _ _ | .csrrsi _ _ _ |
    .csrrci _ _ _ | .unknown _ => .register

/-- The register an instruction names as its destination, if it writes one (R23). -/
def destOf : Instr → Option RegIx
  | .lui rd _ => some rd
  | .auipc rd _ => some rd
  | .jal rd _ => some rd
  | .jalr rd _ _ => some rd
  | .beq _ _ _ => none
  | .bne _ _ _ => none
  | .blt _ _ _ => none
  | .bge _ _ _ => none
  | .bltu _ _ _ => none
  | .bgeu _ _ _ => none
  | .lb rd _ _ => some rd
  | .lh rd _ _ => some rd
  | .lw rd _ _ => some rd
  | .lbu rd _ _ => some rd
  | .lhu rd _ _ => some rd
  | .sb _ _ _ => none
  | .sh _ _ _ => none
  | .sw _ _ _ => none
  | .addi rd _ _ => some rd
  | .slti rd _ _ => some rd
  | .sltiu rd _ _ => some rd
  | .xori rd _ _ => some rd
  | .ori rd _ _ => some rd
  | .andi rd _ _ => some rd
  | .slli rd _ _ _ => some rd
  | .srli rd _ _ _ => some rd
  | .srai rd _ _ _ => some rd
  | .add rd _ _ => some rd
  | .sub rd _ _ => some rd
  | .sll rd _ _ => some rd
  | .slt rd _ _ => some rd
  | .sltu rd _ _ => some rd
  | .xor rd _ _ => some rd
  | .srl rd _ _ => some rd
  | .sra rd _ _ => some rd
  | .or rd _ _ => some rd
  | .and rd _ _ => some rd
  | .fadd rd _ _ _ => some rd
  | .fsub rd _ _ _ => some rd
  | .fmul rd _ _ _ => some rd
  | .fdiv rd _ _ _ => some rd
  | .fsqrt rd _ _ _ => some rd
  | .fmin rd _ _ _ => some rd
  | .fmax rd _ _ _ => some rd
  | .feq rd _ _ _ => some rd
  | .flt rd _ _ _ => some rd
  | .fle rd _ _ _ => some rd
  | .fcvtWS rd _ _ _ => some rd
  | .fcvtSW rd _ _ _ => some rd
  | .fence _ _ _ => none
  | .fenceI _ _ _ => none
  | .ecall => none
  | .ebreak => none
  | .csrrw _ _ _ => none
  | .csrrs _ _ _ => none
  | .csrrc _ _ _ => none
  | .csrrwi _ _ _ => none
  | .csrrsi _ _ _ => none
  | .csrrci _ _ _ => none
  | .unknown _ => none

/-- rd <- v, and the computed next-address is the address after the instruction (R7, R22, R190). -/
def State.completes (s : State) (rd : RegIx) (v : Word) : State := (s.setReg rd v).setNext (s.ia + 4#32) false

/-- Nothing differs but, in the VM of the tick, memory, the pixel transactions, the console, the ring and its counter,
the VM status, the halt flag and the moving unit's next-address and stop, and the draw counter. What of these an
instruction changes is said beside this. -/
structure State.SameOutside (s t : State) : Prop where
  cfg : t.cfg = s.cfg
  running : t.running = s.running
  cur : t.cur = s.cur
  regions : t.regions = s.regions
  counters : t.counters = s.counters
  hostIn : t.hostIn = s.hostIn
  hostOut : t.hostOut = s.hostOut
  sched : t.sched = s.sched
  otherVms : ∀ v : VmId, v ≠ s.cur → t.vms[v] = s.vms[v]
  cpu : t.vm.cpu = s.vm.cpu
  prof : t.vm.prof = s.vm.prof
  tick : t.vm.tick = { s.vm.tick with haltFlag := t.vm.tick.haltFlag, units := t.vm.tick.units }
  unitCount : t.vm.tick.units.length = s.vm.tick.units.length
  otherUnits : ∀ u, u ≠ s.vm.tick.turn → t.vm.unit u = s.vm.unit u
  unit : t.unit = { s.unit with next := t.unit.next, stop := t.unit.stop }

/-- Console, ring, VM status and halt flag are as before. -/
structure State.SameOutput (s t : State) : Prop where
  console : t.vm.console = s.vm.console
  consoleLen : t.vm.consoleLen = s.vm.consoleLen
  ring : t.vm.ring = s.vm.ring
  ringCtr : t.vm.ringCtr = s.vm.ringCtr
  vmStatus : t.vm.vmStatus = s.vm.vmStatus
  haltFlag : t.vm.tick.haltFlag = s.vm.tick.haltFlag

/-- Every byte of memory, every register included, is as before. -/
def State.SameMemory (s t : State) : Prop := ∀ a, t.byte a = s.byte a

/-- The bytes the host would drain (R368). -/
def VM.consoleText (vm : VM) : List Byte := vm.console.take vm.consoleLen

/-! ### Rounding -/

/-- `r` is the exact value `n / d` units of 2^-149 rounded to nearest, ties to even (R8, R234): an infinity of the exact
sign from halfway past the largest finite value on; below, a finite value no farther from the exact one than any other,
with an even significand when another is as near; of the exact sign unless the exact value is 0. -/
structure Fp.NearestEven (r : Word) (n : Int) (d : Nat) : Prop where
  sign : n ≠ 0 → Fp.sign r = decide (n < 0)
  overflow : (2 ^ 25 - 1) * 2 ^ 253 * d ≤ 2 * n.natAbs → r = Fp.inf (decide (n < 0))
  finite : 2 * n.natAbs < (2 ^ 25 - 1) * 2 ^ 253 * d → Fp.isNaN r = false ∧ Fp.isInf r = false
  nearest : 2 * n.natAbs < (2 ^ 25 - 1) * 2 ^ 253 * d → ∀ w : Word, Fp.isNaN w = false → Fp.isInf w = false →
    (Fp.signedUnits r * d - n).natAbs ≤ (Fp.signedUnits w * d - n).natAbs
  even : 2 * n.natAbs < (2 ^ 25 - 1) * 2 ^ 253 * d → ∀ w : Word, Fp.isNaN w = false → Fp.isInf w = false →
    (Fp.signedUnits r * d - n).natAbs = (Fp.signedUnits w * d - n).natAbs → Fp.signedUnits w ≠ Fp.signedUnits r →
    r.getLsbD 0 = false

/-! ### Runs of one unit -/

/-- `k` access events of unit `u`, nothing else moving. -/
def accessRun (cfg : Config) (u : Nat) : Nat → Ctx × Nat → UnitOutcome
  | 0, p => .next p
  | k + 1, p =>
    match accessStep cfg p.1 p.2 u with
    | .next q => accessRun cfg u k q
    | .fault f => .fault f
    | .refused r => .refused r

end Sys2Proof.Machine
end

