-- ==== Sys2Proof/WellFormed.lean ====
section
/-! DEFINITION. The opcode table as the spec prints it (opcode_table.json, R122), and when an instruction is well
formed: its fields are what a word of its row can hold. -/

namespace Sys2Proof

/-- One row of opcode_table.json: a word `w` is of this row when `w &&& mask = value` (R122). -/
structure OpcodeRow where
  mnemonic : String
  mask : Word
  value : Word
  deriving DecidableEq, Repr

/-- Upper immediates, jumps, branches, loads, stores and OP_IMM (R109, R111, R114, R115). -/
def immediateRows : List OpcodeRow :=
  [⟨"LUI", 0x0000007F#32, 0x00000037#32⟩,
   ⟨"AUIPC", 0x0000007F#32, 0x00000017#32⟩,
   ⟨"JAL", 0x0000007F#32, 0x0000006F#32⟩,
   ⟨"JALR", 0x0000707F#32, 0x00000067#32⟩,
   ⟨"BEQ", 0x0000707F#32, 0x00000063#32⟩,
   ⟨"BNE", 0x0000707F#32, 0x00001063#32⟩,
   ⟨"BLT", 0x0000707F#32, 0x00004063#32⟩,
   ⟨"BGE", 0x0000707F#32, 0x00005063#32⟩,
   ⟨"BLTU", 0x0000707F#32, 0x00006063#32⟩,
   ⟨"BGEU", 0x0000707F#32, 0x00007063#32⟩,
   ⟨"LB", 0x0000707F#32, 0x00000003#32⟩,
   ⟨"LH", 0x0000707F#32, 0x00001003#32⟩,
   ⟨"LW", 0x0000707F#32, 0x00002003#32⟩,
   ⟨"LBU", 0x0000707F#32, 0x00004003#32⟩,
   ⟨"LHU", 0x0000707F#32, 0x00005003#32⟩,
   ⟨"SB", 0x0000707F#32, 0x00000023#32⟩,
   ⟨"SH", 0x0000707F#32, 0x00001023#32⟩,
   ⟨"SW", 0x0000707F#32, 0x00002023#32⟩,
   ⟨"ADDI", 0x0000707F#32, 0x00000013#32⟩,
   ⟨"SLTI", 0x0000707F#32, 0x00002013#32⟩,
   ⟨"SLTIU", 0x0000707F#32, 0x00003013#32⟩,
   ⟨"XORI", 0x0000707F#32, 0x00004013#32⟩,
   ⟨"ORI", 0x0000707F#32, 0x00006013#32⟩,
   ⟨"ANDI", 0x0000707F#32, 0x00007013#32⟩,
   ⟨"SLLI", 0x0000707F#32, 0x00001013#32⟩,
   ⟨"SRLI", 0x4000707F#32, 0x00005013#32⟩,
   ⟨"SRAI", 0x4000707F#32, 0x40005013#32⟩]

/-- OP, integer members (R112). -/
def registerRows : List OpcodeRow :=
  [⟨"ADD", 0xFE00707F#32, 0x00000033#32⟩,
   ⟨"SUB", 0xFE00707F#32, 0x40000033#32⟩,
   ⟨"SLL", 0xFE00707F#32, 0x00001033#32⟩,
   ⟨"SLT", 0xFE00707F#32, 0x00002033#32⟩,
   ⟨"SLTU", 0xFE00707F#32, 0x00003033#32⟩,
   ⟨"XOR", 0xFE00707F#32, 0x00004033#32⟩,
   ⟨"SRL", 0xFE00707F#32, 0x00005033#32⟩,
   ⟨"SRA", 0xFE00707F#32, 0x40005033#32⟩,
   ⟨"OR", 0xFE00707F#32, 0x00006033#32⟩,
   ⟨"AND", 0xFE00707F#32, 0x00007033#32⟩]

/-- A floating-point row: opcode 0x33 and the funct7 code; mask 0xFE00007F (R113). -/
def floatRow (mnemonic : String) (code : BitVec 7) : OpcodeRow :=
  ⟨mnemonic, 0xFE00007F#32, code ++ 0#18 ++ 0x33#7⟩

/-- OP, floating-point members (R113). -/
def floatRows (c : FpCodes) : List OpcodeRow :=
  [floatRow "FADD" c.fadd,
   floatRow "FSUB" c.fsub,
   floatRow "FMUL" c.fmul,
   floatRow "FDIV" c.fdiv,
   floatRow "FSQRT" c.fsqrt,
   floatRow "FMIN" c.fmin,
   floatRow "FMAX" c.fmax,
   floatRow "FEQ" c.feq,
   floatRow "FLT" c.flt,
   floatRow "FLE" c.fle,
   floatRow "FCVT.W.S" c.fcvtWS,
   floatRow "FCVT.S.W" c.fcvtSW]

/-- MISC_MEM and SYSTEM (R116, R117). -/
def systemRows : List OpcodeRow :=
  [⟨"FENCE", 0x0000707F#32, 0x0000000F#32⟩,
   ⟨"FENCE.I", 0x0000707F#32, 0x0000100F#32⟩,
   ⟨"ECALL", 0xFFFFFFFF#32, 0x00000073#32⟩,
   ⟨"EBREAK", 0xFFFFFFFF#32, 0x00100073#32⟩,
   ⟨"CSRRW", 0x0000707F#32, 0x00001073#32⟩,
   ⟨"CSRRS", 0x0000707F#32, 0x00002073#32⟩,
   ⟨"CSRRC", 0x0000707F#32, 0x00003073#32⟩,
   ⟨"CSRRWI", 0x0000707F#32, 0x00005073#32⟩,
   ⟨"CSRRSI", 0x0000707F#32, 0x00006073#32⟩,
   ⟨"CSRRCI", 0x0000707F#32, 0x00007073#32⟩]

/-- Every row of the table but the catch-all NOP.UNKNOWN. -/
def opcodeRows (c : FpCodes) : List OpcodeRow :=
  immediateRows ++ registerRows ++ floatRows c ++ systemRows

/-- A word matches a row (R122). -/
def OpcodeRow.takes (r : OpcodeRow) (w : Word) : Bool := w &&& r.mask == r.value

/-- The row of the opcode table an instruction belongs to (R109 to R118), by its mnemonic. -/
def Instr.mnemonic : Instr → String
  | .lui _ _ => "LUI"
  | .auipc _ _ => "AUIPC"
  | .jal _ _ => "JAL"
  | .jalr _ _ _ => "JALR"
  | .beq _ _ _ => "BEQ"
  | .bne _ _ _ => "BNE"
  | .blt _ _ _ => "BLT"
  | .bge _ _ _ => "BGE"
  | .bltu _ _ _ => "BLTU"
  | .bgeu _ _ _ => "BGEU"
  | .lb _ _ _ => "LB"
  | .lh _ _ _ => "LH"
  | .lw _ _ _ => "LW"
  | .lbu _ _ _ => "LBU"
  | .lhu _ _ _ => "LHU"
  | .sb _ _ _ => "SB"
  | .sh _ _ _ => "SH"
  | .sw _ _ _ => "SW"
  | .addi _ _ _ => "ADDI"
  | .slti _ _ _ => "SLTI"
  | .sltiu _ _ _ => "SLTIU"
  | .xori _ _ _ => "XORI"
  | .ori _ _ _ => "ORI"
  | .andi _ _ _ => "ANDI"
  | .slli _ _ _ _ => "SLLI"
  | .srli _ _ _ _ => "SRLI"
  | .srai _ _ _ _ => "SRAI"
  | .add _ _ _ => "ADD"
  | .sub _ _ _ => "SUB"
  | .sll _ _ _ => "SLL"
  | .slt _ _ _ => "SLT"
  | .sltu _ _ _ => "SLTU"
  | .xor _ _ _ => "XOR"
  | .srl _ _ _ => "SRL"
  | .sra _ _ _ => "SRA"
  | .or _ _ _ => "OR"
  | .and _ _ _ => "AND"
  | .fadd _ _ _ _ => "FADD"
  | .fsub _ _ _ _ => "FSUB"
  | .fmul _ _ _ _ => "FMUL"
  | .fdiv _ _ _ _ => "FDIV"
  | .fsqrt _ _ _ _ => "FSQRT"
  | .fmin _ _ _ _ => "FMIN"
  | .fmax _ _ _ _ => "FMAX"
  | .feq _ _ _ _ => "FEQ"
  | .flt _ _ _ _ => "FLT"
  | .fle _ _ _ _ => "FLE"
  | .fcvtWS _ _ _ _ => "FCVT.W.S"
  | .fcvtSW _ _ _ _ => "FCVT.S.W"
  | .fence _ _ _ => "FENCE"
  | .fenceI _ _ _ => "FENCE.I"
  | .ecall => "ECALL"
  | .ebreak => "EBREAK"
  | .csrrw _ _ _ => "CSRRW"
  | .csrrs _ _ _ => "CSRRS"
  | .csrrc _ _ _ => "CSRRC"
  | .csrrwi _ _ _ => "CSRRWI"
  | .csrrsi _ _ _ => "CSRRSI"
  | .csrrci _ _ _ => "CSRRCI"
  | .unknown _ => "NOP.UNKNOWN"

/-- Some row of the table takes the word, so it is not NOP.UNKNOWN (R118). -/
def knownWord (c : FpCodes) (w : Word) : Bool := (opcodeRows c).any (fun r => r.takes w)

/-- Well-formedness of an instruction. The branch and jump offsets have bit 0 clear (R105, R107), and an unknown
word is one that no row takes (R118). Every other field is bounded by its type. -/
def Instr.wf (c : FpCodes) : Instr → Bool
  | .jal _ off => off.extractLsb' 0 1 == 0#1
  | .beq _ _ off | .bne _ _ off | .blt _ _ off | .bge _ _ off | .bltu _ _ off | .bgeu _ _ off =>
      off.extractLsb' 0 1 == 0#1
  | .unknown w => !knownWord c w
  | _ => true

end Sys2Proof
end

