-- ==== Sys2Proof/Certificates/Slice0/Obligations.lean ====
section
/-! DEFINITION. The statements for the provers. Each docstring names the rules of spec/ it formalises. Statements about a
free value (a draw, a choice of the interleaving) hold for every value of the counters that number them. -/

open Sys2Proof Sys2Proof.Machine

/-! ### Encoding -/

/-- R101 to R117: words written out from the spec's encodings, one per family and each immediate's sign bit. -/
def Obligations.SpecExampleWordsDecode : Prop :=
  decodeWord FpCodes.default 0x123452B7#32 = .lui 5#5 0x12345#20 ∧
  decodeWord FpCodes.default 0x4040D193#32 = .srai 3#5 1#5 4#5 0#6 ∧
  decodeWord FpCodes.default 0x402081B3#32 = .sub 3#5 1#5 2#5 ∧
  decodeWord FpCodes.default 0x062081B3#32 = .fmul 3#5 1#5 2#5 0#3 ∧
  decodeWord FpCodes.default 0xFE009CE3#32 = .bne 1#5 0#5 0x1FF8#13 ∧
  decodeWord FpCodes.default 0x0082D303#32 = .lhu 6#5 5#5 8#12 ∧
  decodeWord FpCodes.default 0xFE62AE23#32 = .sw 6#5 5#5 0xFFC#12 ∧
  decodeWord FpCodes.default 0x0FF0000F#32 = .fence 0#5 0#5 0x0FF#12 ∧
  decodeWord FpCodes.default 0xC00022F3#32 = .csrrs 5#5 0#5 0xC00#12 ∧
  decodeWord FpCodes.default 0x00100073#32 = .ebreak ∧
  decodeWord FpCodes.default 0x40001033#32 = .unknown 0x40001033#32

/-- R108: decoding the encoding of a well-formed instruction gives it back, every operand at every value, for every
legal map FP_F7. -/
def Obligations.DecodeOfEncodeIsIdentity : Prop :=
  ∀ c : FpCodes, c.ok = true → ∀ i : Instr, i.wf c = true → decodeWord c (encode c i) = i

/-- R108: no bit of any word is lost by the decoder. -/
def Obligations.EncodeOfDecodeIsIdentity : Prop :=
  ∀ (c : FpCodes) (w : Word), encode c (decodeWord c w) = w

/-- R110, R118, R122: no word is of two rows of the opcode table; the decoder answers an instruction of the row that takes
the word, and NOP.UNKNOWN of the words no row takes; what it answers is well formed. -/
def Obligations.DecoderFollowsTheOpcodeTable : Prop :=
  ∀ c : FpCodes, c.ok = true →
    ((opcodeRows c).Pairwise fun r q => ∀ w : Word, ¬ (r.takes w = true ∧ q.takes w = true)) ∧
    ∀ w : Word,
      (∀ r ∈ opcodeRows c, r.takes w = true → (decodeWord c w).mnemonic = r.mnemonic) ∧
      (knownWord c w = false → decodeWord c w = .unknown w) ∧ (decodeWord c w).wf c = true

/-- R103 to R107: which bit of the word each bit of each immediate is, and the ranges of the sign-extended ones. -/
def Obligations.ImmediatesBitByBit : Prop :=
  ∀ w : Word,
    (∀ k : Nat, k < 32 →
      (sext12 (Fields.imm12I w)).getLsbD k = w.getLsbD (if k < 11 then 20 + k else 31) ∧
      (sext12 (Fields.imm12S w)).getLsbD k = w.getLsbD (if k < 5 then 7 + k else if k < 11 then 20 + k else 31) ∧
      (immB (Fields.imm13B w)).getLsbD k =
        (decide (0 < k) && w.getLsbD (if k < 5 then 7 + k else if k < 11 then 20 + k else if k = 11 then 7 else 31)) ∧
      (immU (Fields.imm20U w)).getLsbD k = (decide (12 ≤ k) && w.getLsbD k) ∧
      (immJ (Fields.imm21J w)).getLsbD k =
        (decide (0 < k) && w.getLsbD (if k < 11 then 20 + k else if k = 11 then 20 else if k < 20 then k else 31))) ∧
    (-2048 ≤ (sext12 (Fields.imm12I w)).toInt ∧ (sext12 (Fields.imm12I w)).toInt ≤ 2047) ∧
    (-2048 ≤ (sext12 (Fields.imm12S w)).toInt ∧ (sext12 (Fields.imm12S w)).toInt ≤ 2047) ∧
    (-4096 ≤ (immB (Fields.imm13B w)).toInt ∧ (immB (Fields.imm13B w)).toInt ≤ 4094) ∧
    (-1048576 ≤ (immJ (Fields.imm21J w)).toInt ∧ (immJ (Fields.imm21J w)).toInt ≤ 1048574)

/-! ### Registers and memory -/

/-- R21, R22: the register ports. x0 reads 0 and discards writes; the others are the words of memory at 4i. -/
def Obligations.RegisterPorts : Prop :=
  ∀ (vm : VM) (r : RegIx) (v : Word),
    vm.reg 0#5 = 0#32 ∧ vm.setReg 0#5 v = vm ∧
    (r ≠ 0#5 → vm.reg r = vm.mem.get (4 * r.toNat + 3) ++ vm.mem.get (4 * r.toNat + 2) ++ vm.mem.get (4 * r.toNat + 1)
        ++ vm.mem.get (4 * r.toNat)) ∧
    (r ≠ 0#5 → vm.setReg r v = vm.storeMem (4 * r.toNat) .word v)

/-- R20, R22, R23: a register reads what was last written to it, and a register write changes no other register and no
byte outside its own four. -/
def Obligations.RegisterWriteThenRead : Prop :=
  ∀ (vm : VM) (r q : RegIx) (v : Word), vm.mem.wf = true →
    (vm.setReg r v).reg q = (if q = r ∧ r ≠ 0#5 then v else vm.reg q) ∧
    ∀ a, (a < 4 * r.toNat ∨ 4 * r.toNat + 4 ≤ a ∨ r = 0#5) → (vm.setReg r v).mem.get a = vm.mem.get a

/-- R62: data and fetch are little-endian, in every configuration, with the rule's own example. -/
def Obligations.LittleEndian : Prop :=
  (∀ (m : Memory) (a : Nat),
    m.load a .word = m.get (a + 3) ++ m.get (a + 2) ++ m.get (a + 1) ++ m.get a ∧
    m.load a .half = (m.get (a + 1) ++ m.get a).setWidth 32 ∧ m.load a .byte = (m.get a).setWidth 32) ∧
  (∀ (cfg : Config) (vm : VM) (ia w : Word), fetchWord cfg vm ia = .ok w →
    w = vm.mem.get (ia.toNat + 3) ++ vm.mem.get (ia.toNat + 2) ++ vm.mem.get (ia.toNat + 1) ++ vm.mem.get ia.toNat) ∧
  (∀ (m : Memory) (a : Nat), m.wf = true →
    (m.store a .word 0x11223344#32).load a .byte = 0x44#32 ∧
    (m.store a .word 0x11223344#32).load (a + 1) .byte = 0x33#32 ∧
    (m.store a .word 0x11223344#32).load (a + 2) .half = 0x1122#32)

/-! ### Results of the integer instructions -/

/-- R103, R106, R111, R144 to R154: LUI, AUIPC and the nine OP_IMM instructions complete in every state, the shifts
whatever the ignored bits hold. -/
def Obligations.ImmediateResults : Prop :=
  ∀ (s : State) (rd rs1 : RegIx) (imm : BitVec 12) (imm20 : BitVec 20) (shamt : BitVec 5) (hi7 : BitVec 7)
      (hi6 : BitVec 6),
    exec (.lui rd imm20) s = .next (s.completes rd (imm20.setWidth 32 <<< 12)) ∧
    exec (.auipc rd imm20) s = .next (s.completes rd (s.ia + imm20.setWidth 32 <<< 12)) ∧
    exec (.addi rd rs1 imm) s = .next (s.completes rd (s.reg rs1 + imm.signExtend 32)) ∧
    exec (.slti rd rs1 imm) s = .next (s.completes rd (if (s.reg rs1).toInt < imm.toInt then 1#32 else 0#32)) ∧
    exec (.sltiu rd rs1 imm) s =
      .next (s.completes rd (if (s.reg rs1).toNat < (imm.signExtend 32).toNat then 1#32 else 0#32)) ∧
    exec (.xori rd rs1 imm) s = .next (s.completes rd (s.reg rs1 ^^^ imm.signExtend 32)) ∧
    exec (.ori rd rs1 imm) s = .next (s.completes rd (s.reg rs1 ||| imm.signExtend 32)) ∧
    exec (.andi rd rs1 imm) s = .next (s.completes rd (s.reg rs1 &&& imm.signExtend 32)) ∧
    exec (.slli rd rs1 shamt hi7) s = .next (s.completes rd (BitVec.ofNat 32 ((s.reg rs1).toNat * 2 ^ shamt.toNat))) ∧
    exec (.srli rd rs1 shamt hi6) s = .next (s.completes rd (BitVec.ofNat 32 ((s.reg rs1).toNat / 2 ^ shamt.toNat))) ∧
    exec (.srai rd rs1 shamt hi6) s = .next (s.completes rd (BitVec.ofInt 32 ((s.reg rs1).toInt / 2 ^ shamt.toNat)))

/-- R155 to R164: the ten integer OP instructions complete in every state; a register shift amount is x[rs2] modulo
32. -/
def Obligations.RegisterRegisterResults : Prop :=
  ∀ (s : State) (rd rs1 rs2 : RegIx),
    exec (.add rd rs1 rs2) s = .next (s.completes rd (s.reg rs1 + s.reg rs2)) ∧
    exec (.sub rd rs1 rs2) s = .next (s.completes rd (s.reg rs1 - s.reg rs2)) ∧
    exec (.slt rd rs1 rs2) s = .next (s.completes rd (if (s.reg rs1).toInt < (s.reg rs2).toInt then 1#32 else 0#32)) ∧
    exec (.sltu rd rs1 rs2) s = .next (s.completes rd (if (s.reg rs1).toNat < (s.reg rs2).toNat then 1#32 else 0#32)) ∧
    exec (.xor rd rs1 rs2) s = .next (s.completes rd (s.reg rs1 ^^^ s.reg rs2)) ∧
    exec (.or rd rs1 rs2) s = .next (s.completes rd (s.reg rs1 ||| s.reg rs2)) ∧
    exec (.and rd rs1 rs2) s = .next (s.completes rd (s.reg rs1 &&& s.reg rs2)) ∧
    exec (.sll rd rs1 rs2) s =
      .next (s.completes rd (BitVec.ofNat 32 ((s.reg rs1).toNat * 2 ^ ((s.reg rs2).toNat % 32)))) ∧
    exec (.srl rd rs1 rs2) s =
      .next (s.completes rd (BitVec.ofNat 32 ((s.reg rs1).toNat / 2 ^ ((s.reg rs2).toNat % 32)))) ∧
    exec (.sra rd rs1 rs2) s =
      .next (s.completes rd (BitVec.ofInt 32 ((s.reg rs1).toInt / 2 ^ ((s.reg rs2).toNat % 32))))

/-! ### Control transfer -/

/-- R193, R194: JAL and JALR link pc + 4 and compute their target, the source read before the link is written. -/
def Obligations.JumpResults : Prop :=
  ∀ (s : State) (rd rs1 : RegIx) (off : BitVec 21) (imm : BitVec 12),
    exec (.jal rd off) s = .next ((s.setReg rd (s.ia + 4#32)).setNext (s.ia + off.signExtend 32) false) ∧
    exec (.jalr rd rs1 imm) s =
      .next ((s.setReg rd (s.ia + 4#32)).setNext ((s.reg rs1 + imm.signExtend 32) &&& ~~~1#32) false)

/-- R195 to R201: the six branches complete in every state, write no register, and compute the target or pc + 4. -/
def Obligations.BranchResults : Prop :=
  ∀ (s : State) (rs1 rs2 : RegIx) (off : BitVec 13),
    let goes := fun (taken : Prop) [Decidable taken] =>
      (.next (s.setNext (if taken then s.ia + off.signExtend 32 else s.ia + 4#32) false) :
        Host.Outcome State Fault Refusal)
    exec (.beq rs1 rs2 off) s = goes (s.reg rs1 = s.reg rs2) ∧
    exec (.bne rs1 rs2 off) s = goes (s.reg rs1 ≠ s.reg rs2) ∧
    exec (.blt rs1 rs2 off) s = goes ((s.reg rs1).toInt < (s.reg rs2).toInt) ∧
    exec (.bge rs1 rs2 off) s = goes ((s.reg rs2).toInt ≤ (s.reg rs1).toInt) ∧
    exec (.bltu rs1 rs2 off) s = goes ((s.reg rs1).toNat < (s.reg rs2).toNat) ∧
    exec (.bgeu rs1 rs2 off) s = goes ((s.reg rs2).toNat ≤ (s.reg rs1).toNat)

/-! ### Loads and stores -/

/-- R63, R67, R72, R213 to R217: the loads complete. Inside memory and outside the window, aligned or (with
allow_misaligned) not, they give the bytes at the effective address `a` = x[rs1] + immI (R210); touching the display
window, a draw of their width, the next free value (log entry 6), also where the access lies past
MEM_SIZE as well (the model's choice, log entry 19). -/
def Obligations.LoadResults : Prop :=
  ∀ (s : State) (rd rs1 : RegIx) (imm : BitVec 12),
    let a := (s.reg rs1 + imm.signExtend 32).toNat
    let w := Config.freeWord s.free
    let gives := fun (v : Word) =>
      (.next { s.completes rd v with free := s.free + 1 } : Host.Outcome State Fault Refusal)
    let fits := fun (n : Size) => touchesWindow s.cfg a n = false ∧ a + n.bytes ≤ s.cfg.memSize ∧
      (a % n.bytes = 0 ∨ s.cfg.allowMisaligned = true)
    (fits .byte → exec (.lb rd rs1 imm) s = .next (s.completes rd ((s.byte a).signExtend 32)) ∧
      exec (.lbu rd rs1 imm) s = .next (s.completes rd ((s.byte a).setWidth 32))) ∧
    (fits .half → exec (.lh rd rs1 imm) s = .next (s.completes rd ((s.byte (a + 1) ++ s.byte a).signExtend 32)) ∧
      exec (.lhu rd rs1 imm) s = .next (s.completes rd ((s.byte (a + 1) ++ s.byte a).setWidth 32))) ∧
    (fits .word → exec (.lw rd rs1 imm) s =
      .next (s.completes rd (s.byte (a + 3) ++ s.byte (a + 2) ++ s.byte (a + 1) ++ s.byte a))) ∧
    (touchesWindow s.cfg a .byte = true → exec (.lb rd rs1 imm) s = gives ((w.setWidth 8).signExtend 32) ∧
      exec (.lbu rd rs1 imm) s = gives ((w.setWidth 8).setWidth 32)) ∧
    (touchesWindow s.cfg a .half = true → exec (.lh rd rs1 imm) s = gives ((w.setWidth 16).signExtend 32) ∧
      exec (.lhu rd rs1 imm) s = gives ((w.setWidth 16).setWidth 32)) ∧
    (touchesWindow s.cfg a .word = true → exec (.lw rd rs1 imm) s = gives w)

/-- R64, R67, R70, R218 to R220: the stores complete. Inside memory and outside the window they store the low bytes of
x[rs2] at the effective address `a` = x[rs1] + immS (R210); SW at an aligned address of the window changes no memory and
issues one transaction, row-major with the rows inverted. -/
def Obligations.StoreResults : Prop :=
  ∀ (s : State) (rs2 rs1 : RegIx) (imm : BitVec 12),
    let a := (s.reg rs1 + imm.signExtend 32).toNat
    let fits := fun (n : Size) => touchesWindow s.cfg a n = false ∧ a + n.bytes ≤ s.cfg.memSize ∧
      (a % n.bytes = 0 ∨ s.cfg.allowMisaligned = true)
    let stores := fun (n : Size) => (.next ((s.withVm (s.vm.storeMem a n (s.reg rs2))).setNext (s.ia + 4#32) false) :
      Host.Outcome State Fault Refusal)
    (fits .byte → exec (.sb rs2 rs1 imm) s = stores .byte) ∧
    (fits .half → exec (.sh rs2 rs1 imm) s = stores .half) ∧
    (fits .word → exec (.sw rs2 rs1 imm) s = stores .word) ∧
    (let p := (a - s.cfg.mmioBase) / 4
     a % 4 = 0 → s.cfg.mmioBase ≤ a → a < s.cfg.mmioBase + 4 * s.cfg.fbWidth * s.cfg.fbHeight →
     exec (.sw rs2 rs1 imm) s = .next ((s.withVm { s.vm with pixels := s.vm.pixels ++
       [⟨p % s.cfg.fbWidth, s.cfg.fbHeight - 1 - p / s.cfg.fbWidth, s.reg rs2⟩] }).setNext (s.ia + 4#32) false))

/-- R70: the window's words and the framebuffer's pixels correspond one to one; word 0 is the leftmost pixel of the
bottom row and the last word the rightmost of the top row. -/
def Obligations.WindowCoversTheFramebuffer : Prop :=
  ∀ (cfg : Config) (v : Word), cfg.mmioBase % 4 = 0 → 0 < cfg.fbWidth → 0 < cfg.fbHeight →
    (∀ a, isPixelAddress cfg a = true → (pixelStore cfg a v).col < cfg.fbWidth ∧ (pixelStore cfg a v).row < cfg.fbHeight) ∧
    (∀ col row, col < cfg.fbWidth → row < cfg.fbHeight →
      ∃ a, (isPixelAddress cfg a = true ∧ pixelStore cfg a v = ⟨col, row, v⟩) ∧
        ∀ b, isPixelAddress cfg b = true ∧ pixelStore cfg b v = ⟨col, row, v⟩ → b = a) ∧
    pixelStore cfg cfg.mmioBase v = ⟨0, cfg.fbHeight - 1, v⟩ ∧
    pixelStore cfg (cfg.mmioBase + cfg.windowSize - 4) v = ⟨cfg.fbWidth - 1, 0, v⟩

/-- R64 cases 3 and 4, R65, R72, U6: the accesses the spec gives no meaning are refused: a load or store past MEM_SIZE,
a store into the window that is not an aligned word, a misaligned access with allow_misaligned off. That it is a refusal
is the model's choice (log entry 8). -/
def Obligations.AccessesWithoutMeaningAreRefused : Prop :=
  ∀ (s : State) (rd rs2 rs1 : RegIx) (imm : BitVec 12),
    let a := (s.reg rs1 + imm.signExtend 32).toNat
    let loads := [(Size.byte, Instr.lb rd rs1 imm), (.byte, .lbu rd rs1 imm), (.half, .lh rd rs1 imm),
      (.half, .lhu rd rs1 imm), (.word, .lw rd rs1 imm)]
    let stores := [(Size.byte, Instr.sb rs2 rs1 imm), (.half, .sh rs2 rs1 imm), (.word, .sw rs2 rs1 imm)]
    (∀ x ∈ loads ++ stores, touchesWindow s.cfg a x.1 = false → s.cfg.memSize < a + x.1.bytes →
      exec x.2 s = .refused .outOfRange) ∧
    (∀ x ∈ loads ++ stores, touchesWindow s.cfg a x.1 = false → a + x.1.bytes ≤ s.cfg.memSize → a % x.1.bytes ≠ 0 →
      s.cfg.allowMisaligned = false → exec x.2 s = .refused .misalignedAccess) ∧
    (∀ x ∈ stores, touchesWindow s.cfg a x.1 = true → (x.1 = .word → isPixelAddress s.cfg a = false) →
      exec x.2 s = .refused .windowStore)

/-! ### Floating point -/

/-- R230, R231, R236 to R247: the floating-point instructions complete in every state, whatever funct3 and the ignored
rs2 hold. FCVT.W.S gives the truncated value where it is a 32-bit signed integer, otherwise a draw (log entry 6). What the operations do
under parameters other than the defaults is log entry 9. -/
def Obligations.FloatResults : Prop :=
  ∀ (s : State) (rd rs1 rs2 : RegIx) (f3 : BitVec 3),
    let a := s.reg rs1
    let b := s.reg rs2
    exec (.fadd rd rs1 rs2 f3) s = .next (s.completes rd (Fp.add s.cfg a b)) ∧
    exec (.fsub rd rs1 rs2 f3) s =
      .next (s.completes rd (if Fp.isNaN a || Fp.isNaN b then s.cfg.qnan else Fp.add s.cfg a (b ^^^ 0x80000000#32))) ∧
    exec (.fmul rd rs1 rs2 f3) s = .next (s.completes rd (Fp.mul s.cfg a b)) ∧
    exec (.fdiv rd rs1 rs2 f3) s = .next (s.completes rd (Fp.div s.cfg a b)) ∧
    exec (.fsqrt rd rs1 rs2 f3) s = .next (s.completes rd (Fp.sqrt s.cfg a)) ∧
    exec (.fmin rd rs1 rs2 f3) s = .next (s.completes rd (Fp.min s.cfg a b)) ∧
    exec (.fmax rd rs1 rs2 f3) s = .next (s.completes rd (Fp.max s.cfg a b)) ∧
    exec (.feq rd rs1 rs2 f3) s = .next (s.completes rd (Fp.eq a b)) ∧
    exec (.flt rd rs1 rs2 f3) s = .next (s.completes rd (Fp.lt a b)) ∧
    exec (.fle rd rs1 rs2 f3) s = .next (s.completes rd (Fp.le a b)) ∧
    exec (.fcvtSW rd rs1 rs2 f3) s = .next (s.completes rd (Fp.ofInt32 s.cfg a)) ∧
    (let t := Int.tdiv (Fp.signedUnits a) (2 ^ 149)
     exec (.fcvtWS rd rs1 rs2 f3) s =
       if Fp.isNaN a = false ∧ Fp.isInf a = false ∧ -(2 ^ 31) ≤ t ∧ t ≤ 2 ^ 31 - 1 then
         .next (s.completes rd (BitVec.ofInt 32 t))
       else .next { s.completes rd (Config.freeWord s.free) with free := s.free + 1 })

/-- R233: a NaN operand gives QNAN before every other special case, and every NaN the arithmetic generates is QNAN. -/
def Obligations.NanRule : Prop :=
  Config.default.qnan = 0x7FC00000#32 ∧
  ∀ (cfg : Config) (a b : Word),
    (Fp.isNaN a = true ∨ Fp.isNaN b = true →
      Fp.add cfg a b = cfg.qnan ∧ Fp.sub cfg a b = cfg.qnan ∧ Fp.mul cfg a b = cfg.qnan ∧ Fp.div cfg a b = cfg.qnan) ∧
    (Fp.isNaN a = true → Fp.sqrt cfg a = cfg.qnan) ∧
    (∀ r ∈ [Fp.add cfg a b, Fp.sub cfg a b, Fp.mul cfg a b, Fp.div cfg a b, Fp.sqrt cfg a],
      Fp.isNaN r = true → r = cfg.qnan)

/-- R236 to R239: the special cases of FADD, FSUB, FMUL and FDIV. That the exact zero sum is +0 in every rounding
mode, and which operands fp_flush_subnormals turns into zeros, is the model's choice (log entry 9). -/
def Obligations.ArithmeticSpecialCases : Prop :=
  ∀ (cfg : Config) (a b : Word), Fp.isNaN a = false → Fp.isNaN b = false →
    let s := xor (Fp.sign a) (Fp.sign b)
    (Fp.isInf a = true → Fp.isInf b = true → Fp.add cfg a b = if Fp.sign a = Fp.sign b then a else cfg.qnan) ∧
    (Fp.isInf a = true → Fp.isInf b = true → Fp.sub cfg a b = if Fp.sign a = Fp.sign b then cfg.qnan else a) ∧
    (Fp.isInf a = true → Fp.isInf b = false → Fp.add cfg a b = a ∧ Fp.sub cfg a b = a ∧ Fp.add cfg b a = a) ∧
    (Fp.isZero a = true → Fp.isZero b = true → Fp.add cfg a b = if Fp.sign a = Fp.sign b then a else 0#32) ∧
    (Fp.isInf a = false → Fp.sub cfg a a = 0#32) ∧
    (Fp.isInf a = true → Fp.isZero b = true → Fp.mul cfg a b = cfg.qnan ∧ Fp.mul cfg b a = cfg.qnan) ∧
    (Fp.isInf a = true → Fp.isZero (Fp.flush cfg b) = false → Fp.mul cfg a b = Fp.inf s ∧ Fp.mul cfg b a = Fp.inf s) ∧
    (Fp.isZero a = true → Fp.isInf b = false → Fp.mul cfg a b = Fp.zero s ∧ Fp.mul cfg b a = Fp.zero s) ∧
    (Fp.isZero a = true → Fp.isZero b = true → Fp.div cfg a b = cfg.qnan) ∧
    (Fp.isZero (Fp.flush cfg a) = false → Fp.isZero b = true → Fp.div cfg a b = Fp.inf s) ∧
    (Fp.isInf a = true → Fp.isInf b = true → Fp.div cfg a b = cfg.qnan) ∧
    (Fp.isInf a = false → Fp.isInf b = true → Fp.div cfg a b = Fp.zero s) ∧
    (Fp.isInf a = true → Fp.isInf b = false → Fp.div cfg a b = Fp.inf s) ∧
    (Fp.isZero a = true → Fp.isZero (Fp.flush cfg b) = false → Fp.div cfg a b = Fp.zero s)

/-- R241, R242: FMIN and FMAX skip one NaN, answer QNAN for two, and otherwise answer the operand that the comparisons put
first or last. Of two zeros with different signs the configuration says which (R248; the alternatives are the model's choice,
log entry 9), by default -0 for FMIN and +0 for FMAX. -/
def Obligations.MinMaxRules : Prop :=
  ∀ (cfg : Config) (a b : Word),
    (Fp.isNaN a = true → Fp.isNaN b = true → Fp.min cfg a b = cfg.qnan ∧ Fp.max cfg a b = cfg.qnan) ∧
    (Fp.isNaN a = true → Fp.isNaN b = false → Fp.min cfg a b = b ∧ Fp.max cfg a b = b ∧
      Fp.min cfg b a = b ∧ Fp.max cfg b a = b) ∧
    (Fp.isNaN a = false → Fp.isNaN b = false →
      (Fp.min cfg a b = a ∨ Fp.min cfg a b = b) ∧ (Fp.max cfg a b = a ∨ Fp.max cfg a b = b) ∧
      Fp.le (Fp.min cfg a b) a = 1#32 ∧ Fp.le (Fp.min cfg a b) b = 1#32 ∧
      Fp.le a (Fp.max cfg a b) = 1#32 ∧ Fp.le b (Fp.max cfg a b) = 1#32) ∧
    (let negativeFirst := fun (p : ZeroPick) =>
        (match p with | .negative | .first => 0x80000000#32 | .positive | .second => 0#32 : Word)
     let positiveFirst := fun (p : ZeroPick) =>
        (match p with | .negative | .second => 0x80000000#32 | .positive | .first => 0#32 : Word)
     Fp.min cfg 0x80000000#32 0#32 = negativeFirst cfg.fminZero ∧ Fp.min cfg 0#32 0x80000000#32 = positiveFirst cfg.fminZero ∧
     Fp.max cfg 0x80000000#32 0#32 = negativeFirst cfg.fmaxZero ∧ Fp.max cfg 0#32 0x80000000#32 = positiveFirst cfg.fmaxZero) ∧
    Config.default.fminZero = .negative ∧ Config.default.fmaxZero = .positive

/-- R232, R243 to R245: the comparisons answer the integer 1 exactly when the values compare so, else 0; a NaN compares
with nothing. Values are in units of 2^-149, the infinities beyond every finite value (the last clause). -/
def Obligations.ComparisonsOrderValues : Prop :=
  ∀ a b : Word,
    let value := fun (x : Word) =>
      if Fp.isInf x = true then (if Fp.sign x = true then -(2 ^ 277) else 2 ^ 277 : Int) else Fp.signedUnits x
    (∀ r ∈ [Fp.eq a b, Fp.lt a b, Fp.le a b], r = 0#32 ∨ r = 1#32) ∧
    (Fp.isNaN a = true ∨ Fp.isNaN b = true → Fp.eq a b = 0#32 ∧ Fp.lt a b = 0#32 ∧ Fp.le a b = 0#32) ∧
    (Fp.isNaN a = false → Fp.isNaN b = false →
      (Fp.eq a b = 1#32 ↔ value a = value b) ∧
      (Fp.lt a b = 1#32 ↔ value a < value b) ∧
      (Fp.le a b = 1#32 ↔ value a ≤ value b)) ∧
    (Fp.isNaN a = false → Fp.isInf a = false → -(2 ^ 277) < Fp.signedUnits a ∧ Fp.signedUnits a < 2 ^ 277)

/-- R8, R234: rounding to nearest, ties to even. The bits of the magnitude num/den (in units of 2^-149) are those of
the nearest magnitude, of the even one of two equally near; from halfway past the largest finite value on, infinity. -/
def Obligations.RoundToNearestEven : Prop :=
  ∀ (sgn : Bool) (num den : Nat), 0 < den →
    let m := Fp.roundMag .nearestEven sgn num den
    let value := fun (k : Nat) => Fp.units (BitVec.ofNat 32 k)
    let far := fun (k : Nat) => ((value k * den : Nat) - (num : Nat) : Int).natAbs
    ((2 ^ 25 - 1) * 2 ^ 253 * den ≤ 2 * num → m = 0x7F800000) ∧
    (2 * num < (2 ^ 25 - 1) * 2 ^ 253 * den → m < 0x7F800000 ∧
      ∀ k, k < 0x7F800000 → far m ≤ far k ∧ (far m = far k → k ≠ m → m % 2 = 0))

/-- R8, R234, R236 to R239: with the default rounding and no flushing, the sum, difference, product and quotient of finite
operands is the exact one rounded to nearest, ties to even: infinite, with the sign of the exact result, from halfway past
the largest finite value on, and finite below (`Fp.NearestEven`). An exact zero from non-zero operands is +0. Values are
in units of 2^-149. -/
def Obligations.ArithmeticIsCorrectlyRounded : Prop :=
  ∀ (cfg : Config) (a b : Word), cfg.fpRound = .nearestEven → cfg.flushSubnormals = false →
    let v := Fp.signedUnits
    Fp.isNaN a = false → Fp.isInf a = false → Fp.isNaN b = false → Fp.isInf b = false →
    Fp.NearestEven (Fp.add cfg a b) (v a + v b) 1 ∧
    Fp.NearestEven (Fp.sub cfg a b) (v a - v b) 1 ∧
    Fp.NearestEven (Fp.mul cfg a b) (v a * v b) (2 ^ 149) ∧
    (v b ≠ 0 → Fp.NearestEven (Fp.div cfg a b) (v a * 2 ^ 149 * (if v b < 0 then -1 else 1)) (v b).natAbs) ∧
    (v a ≠ 0 → v a + v b = 0 → Fp.add cfg a b = 0#32) ∧
    (v a ≠ 0 → v a - v b = 0 → Fp.sub cfg a b = 0#32)

/-- R240: the special cases of FSQRT, and with the default rounding the root of a positive finite value is a nearest
finite value to the exact root, which is sqrt(units * 2^149) units. -/
def Obligations.SquareRootIsCorrectlyRounded : Prop :=
  ∀ (cfg : Config) (a w : Word),
    (Fp.isZero a = true → Fp.sqrt cfg a = a) ∧
    (Fp.isNaN a = false → Fp.isZero (Fp.flush cfg a) = false → Fp.sign a = true → Fp.sqrt cfg a = cfg.qnan) ∧
    Fp.sqrt cfg 0x7F800000#32 = 0x7F800000#32 ∧
    (cfg.fpRound = .nearestEven → cfg.flushSubnormals = false → Fp.isNaN a = false → Fp.isInf a = false →
      Fp.isZero a = false → Fp.sign a = false → Fp.isNaN w = false → Fp.isInf w = false →
      Fp.isInf (Fp.sqrt cfg a) = false ∧ Fp.isSubnormal (Fp.sqrt cfg a) = false ∧
      |(Fp.signedUnits (Fp.sqrt cfg a) : ℝ) - Real.sqrt ((Fp.units a : ℝ) * 2 ^ 149)|
        ≤ |(Fp.signedUnits w : ℝ) - Real.sqrt ((Fp.units a : ℝ) * 2 ^ 149)|)

/-- R247: FCVT.S.W truncates toward zero: the finite value of largest magnitude not above |v|, with the sign of v, and
+0 for 0. -/
def Obligations.IntegerToFloatTruncates : Prop :=
  ∀ (cfg : Config) (v w : Word), cfg.cvtRound = .towardZero →
    let r := Fp.ofInt32 cfg v
    Fp.isNaN r = false ∧ Fp.isInf r = false ∧ Fp.isSubnormal r = false ∧
    (Fp.sign r = true ↔ v.toInt < 0) ∧ (v = 0#32 → r = 0#32) ∧
    Fp.units r ≤ v.toInt.natAbs * 2 ^ 149 ∧
    (Fp.isNaN w = false → Fp.isInf w = false → Fp.units w ≤ v.toInt.natAbs * 2 ^ 149 → Fp.units w ≤ Fp.units r)

/-! ### MISC_MEM, SYSTEM and the unknown word -/

/-- R280, R281, R286 to R293, R118: FENCE, FENCE.I, the six CSR forms and every unknown word complete in every state
and change nothing: rd keeps its value and next = pc + 4. -/
def Obligations.NoEffectInstructions : Prop :=
  ∀ (s : State) (rd rs1 : RegIx) (imm : BitVec 12) (w : Word),
    ∀ i ∈ [Instr.fence rd rs1 imm, .fenceI rd rs1 imm, .csrrw rd rs1 imm, .csrrs rd rs1 imm, .csrrc rd rs1 imm,
        .csrrwi rd rs1 imm, .csrrsi rd rs1 imm, .csrrci rd rs1 imm, .unknown w],
      exec i s = .next (s.setNext (s.ia + 4#32) false)

/-- R285: EBREAK completes in every state: it raises the halt flag, stops its unit, and changes nothing else. -/
def Obligations.EbreakResult : Prop :=
  ∀ s : State, exec .ebreak s =
    .next ((s.withVm { s.vm with tick := { s.vm.tick with haltFlag := true } }).setNext (s.ia + 4#32) true)

/-- R282, R283, R364, R406: an ECALL whose number x17 is not 64 completes in every state: the next ring slot gets
{vm_id, x17, x10 .. x15, 0}, the counter goes up by one modulo 2^32, the VM waits for the host and the unit stops; no
register and no memory changes. -/
def Obligations.EcallQueues : Prop :=
  ∀ s : State, s.reg 17#5 ≠ 64#32 →
    ∃ t, exec .ecall s = .next t ∧
      t = (s.withVm { s.vm with
        ringCtr := s.vm.ringCtr + 1#32
        ring := s.vm.ring.set (ringSlot s.vm.ringCtr) ⟨BitVec.ofNat 32 s.cur.val, s.reg 17#5, s.reg 10#5, s.reg 11#5,
          s.reg 12#5, s.reg 13#5, s.reg 14#5, s.reg 15#5, 0#32⟩
        vmStatus := .waitingSyscall }).setNext (s.ia + 4#32) true ∧
      (ringSlot s.vm.ringCtr).val = s.vm.ringCtr.toNat % 16 ∧
      ∀ k : Fin 16, k.val ≠ s.vm.ringCtr.toNat % 16 → t.vm.ring[k] = s.vm.ring[k]

/-- R284, R368: an ECALL with x17 = 64. With a descriptor x10 other than 1 it changes nothing. With x10 = 1 it reads the
x12 bytes from x11 on: they are appended to the console in order, what exceeds CONSOLE_CAP is dropped, and nothing else
changes. A byte in the display window is a draw (R72, log entry 6). A byte past MEM_SIZE and outside the window has no
meaning, and the instruction is refused (R65, the model's choice, log entry 8). Addresses wrap modulo 2^32 (log entry
20). -/
def Obligations.ConsoleWriteResult : Prop :=
  ∀ s : State, s.reg 17#5 = 64#32 → s.vm.console.length = s.cfg.consoleCap → s.vm.consoleLen ≤ s.cfg.consoleCap →
    (s.reg 10#5 ≠ 1#32 → exec .ecall s = .next (s.setNext (s.ia + 4#32) false)) ∧
    (s.reg 10#5 = 1#32 →
      let len := (s.reg 12#5).toNat
      let addr := fun (k : Nat) => ((s.reg 11#5).toNat + k) % 2 ^ 32
      let window := fun (k : Nat) => touchesWindow s.cfg (addr k) .byte
      let read := fun (k : Nat) =>
        if window k = true then (Config.freeWord (s.free + (List.range k).countP window)).setWidth 8 else s.byte (addr k)
      ((∃ k, k < len ∧ window k = false ∧ s.cfg.memSize ≤ addr k) → exec .ecall s = .refused .outOfRange) ∧
      ((∀ k, k < len → window k = true ∨ addr k < s.cfg.memSize) →
        ∃ t, exec .ecall s = .next t ∧
          t.vm.consoleText = (s.vm.consoleText ++ (List.range len).map read).take s.cfg.consoleCap ∧
          t = { (s.withVm { s.vm with console := t.vm.console, consoleLen := t.vm.consoleLen }).setNext
            (s.ia + 4#32) false with free := s.free + (List.range len).countP window }))

/-! ### What instructions leave alone -/

/-- R23, R142, R143, R191, R195, R211, R231, R280, R286: the frame of every instruction that reaches registers only,
and of the loads: only the destination's four bytes may change, none for x0 or without a destination; no other
register, no output, no other unit, VM or field. Only the loads and FCVT.W.S draw. -/
def Obligations.RegisterFormsFrame : Prop :=
  ∀ (i : Instr) (s t : State), shapeOf i = .register ∨ shapeOf i = .load → s.vm.mem.wf = true → exec i s = .next t →
    s.SameOutside t ∧ s.SameOutput t ∧ t.vm.pixels = s.vm.pixels ∧
    (destOf i = none ∨ destOf i = some 0#5 → s.SameMemory t) ∧
    (∀ rd, destOf i = some rd →
      (∀ a, a < 4 * rd.toNat ∨ 4 * rd.toNat + 4 ≤ a → t.byte a = s.byte a) ∧ ∀ q, q ≠ rd → t.reg q = s.reg q) ∧
    (t.free = s.free ∨ (t.free = s.free + 1 ∧ (shapeOf i = .load ∨ ∃ rd rs1 rs2 f3, i = .fcvtWS rd rs1 rs2 f3)))

/-- R64, R66, R210, R218 to R220: the frame of the stores. The bytes stored to are those of the effective address; every
byte outside them, and every register whose bytes are outside them, is as before; an aligned word store into the window
leaves all of memory and appends one transaction; nothing else changes. -/
def Obligations.StoresFrame : Prop :=
  ∀ (s t : State) (rs2 rs1 : RegIx) (imm : BitVec 12) (n : Size), s.vm.mem.wf = true →
    let a := (s.reg rs1 + sext12 imm).toNat
    exec (match n with | .byte => .sb rs2 rs1 imm | .half => .sh rs2 rs1 imm | .word => .sw rs2 rs1 imm) s = .next t →
    s.SameOutside t ∧ s.SameOutput t ∧ t.free = s.free ∧
    (writeKind s.cfg a n = .plain → t.vm.pixels = s.vm.pixels ∧
      (∀ k, k < n.bytes → t.byte (a + k) = (s.reg rs2).extractLsb' (8 * k) 8) ∧
      (∀ x, x < a ∨ a + n.bytes ≤ x → t.byte x = s.byte x) ∧
      (∀ q : RegIx, 4 * q.toNat + 4 ≤ a ∨ a + n.bytes ≤ 4 * q.toNat → t.reg q = s.reg q)) ∧
    (writeKind s.cfg a n ≠ .plain → s.SameMemory t ∧ t.vm.pixels = s.vm.pixels ++ [pixelStore s.cfg a (s.reg rs2)])

/-- R282 to R285: the frame of ECALL and EBREAK: no byte of memory, so no register, and no pixel transaction changes;
EBREAK changes the halt flag only; ECALL changes the console only when x17 = 64 and otherwise the ring, its counter and
the VM status only. -/
def Obligations.SystemFrame : Prop :=
  ∀ s t : State,
    (exec .ecall s = .next t → s.SameOutside t ∧ s.SameMemory t ∧ t.vm.pixels = s.vm.pixels ∧
      t.vm.tick.haltFlag = s.vm.tick.haltFlag ∧
      (s.reg 17#5 = 64#32 → t.vm.ring = s.vm.ring ∧ t.vm.ringCtr = s.vm.ringCtr ∧ t.vm.vmStatus = s.vm.vmStatus) ∧
      (s.reg 17#5 ≠ 64#32 → t.vm.console = s.vm.console ∧ t.vm.consoleLen = s.vm.consoleLen ∧ t.free = s.free)) ∧
    (exec .ebreak s = .next t → s.SameOutside t ∧ s.SameMemory t ∧ t.vm.pixels = s.vm.pixels ∧ t.free = s.free ∧
      t.vm.console = s.vm.console ∧ t.vm.consoleLen = s.vm.consoleLen ∧ t.vm.ring = s.vm.ring ∧
      t.vm.ringCtr = s.vm.ringCtr ∧ t.vm.vmStatus = s.vm.vmStatus)

/-- R400, R401, R403: no instruction traps. Every instruction completes in every state but a load, a store or a console
write whose access the spec gives no meaning, and those are refused (log entry 8). -/
def Obligations.NoInstructionTraps : Prop :=
  ∀ (i : Instr) (s : State), (∃ t, exec i s = .next t) ∨
    ((shapeOf i = .load ∨ shapeOf i = .store ∨ (i = .ecall ∧ s.reg 17#5 = 64#32 ∧ s.reg 10#5 = 1#32)) ∧
      ∃ r ∈ [Refusal.outOfRange, .windowStore, .misalignedAccess], exec i s = .refused r)

/-- R401, R405, R412: which instructions reach what lies beyond registers and memory: the VM status is changed only by a
queued ECALL, the halt flag only by EBREAK, the ring only by a queued ECALL, the console only by a console write, the
framebuffer only by SW; and a unit is stopped only by a queued ECALL or EBREAK. -/
def Obligations.OnlyTheseReachOutside : Prop :=
  ∀ (i : Instr) (s t : State), exec i s = .next t →
    (t.vm.vmStatus ≠ s.vm.vmStatus ∨ t.vm.ring ≠ s.vm.ring ∨ t.vm.ringCtr ≠ s.vm.ringCtr →
      i = .ecall ∧ s.reg 17#5 ≠ 64#32) ∧
    (t.vm.tick.haltFlag ≠ s.vm.tick.haltFlag → i = .ebreak) ∧
    (t.vm.console ≠ s.vm.console ∨ t.vm.consoleLen ≠ s.vm.consoleLen →
      i = .ecall ∧ s.reg 17#5 = 64#32 ∧ s.reg 10#5 = 1#32) ∧
    (t.vm.pixels ≠ s.vm.pixels → ∃ rs2 rs1 imm, i = .sw rs2 rs1 imm) ∧
    (s.vm.tick.turn < s.vm.tick.units.length → t.unit.stop = true →
      i = .ebreak ∨ (i = .ecall ∧ s.reg 17#5 ≠ 64#32))

/-! ### The step -/

/-- R78, R79, R306, R307: in single-unit mode, when the unit may begin at a PC that is aligned and not HALT_PC: inside
memory and outside the window the word there is fetched, and the step is `exec` of its decoding on the state in which the
unit has claimed the PC, followed by what the scheduler does after the instruction. A fetch from the window or past
MEM_SIZE has no rule and is refused (log entry 8), as is, with strict_decode off, a word whose decoding depends on the
policy (log entry 10); both are the model's choice. -/
def Obligations.StepRunsTheDecodedInstruction : Prop :=
  ∀ (s : State) (x : ExecUnit),
    s.running = true → s.cfg.nUnits = 1 → s.vm.tick.units = [x] → x.phase ≠ .left → s.vm.mayBegin = true →
    s.vm.tick.lock = false → s.vm.cpu.pc ≠ s.cfg.haltPc → s.vm.cpu.pc.toNat % 4 = 0 →
    let pc := s.vm.cpu.pc
    let w := s.vm.mem.load pc.toNat .word
    (touchesWindow s.cfg pc.toNat .word = false → pc.toNat + 4 ≤ s.cfg.memSize →
      fetchWord s.cfg s.vm pc = .ok w ∧
      (decodable s.cfg w = true →
        s.claim.ia = pc ∧
        step s = (match exec (decodeWord s.cfg.fpCodes w) s.claim with
          | .next t => .next t.finish
          | .fault f => .fault f
          | .refused r => .refused r)) ∧
      (decodable s.cfg w = false → step s = .refused .looseDecode)) ∧
    (touchesWindow s.cfg pc.toNat .word = true → step s = .refused .windowFetch) ∧
    (touchesWindow s.cfg pc.toNat .word = false → s.cfg.memSize < pc.toNat + 4 → step s = .refused .outOfRange) ∧
    (s.cfg.strictDecode = true → ∀ w : Word, decodable s.cfg w = true)

/-- R190, R309 to R312, R308: what a completed single-unit iteration leaves: the PC is the computed next-address, one
more instruction is counted, the profiler slot of its address is recorded, and the unit goes on or leaves. -/
def Obligations.IterationCommitsTheNextAddress : Prop :=
  ∀ (s t u : State) (x : ExecUnit) (i : Instr) (w : Word),
    s.running = true → s.cfg.nUnits = 1 → s.vm.tick.units = [x] → x.phase ≠ .left → s.vm.mayBegin = true →
    s.vm.tick.lock = false → s.vm.cpu.pc ≠ s.cfg.haltPc → s.vm.cpu.pc.toNat % 4 = 0 →
    fetchWord s.cfg s.vm s.vm.cpu.pc = .ok w → decodeWord s.cfg.fpCodes w = i →
    exec i s.claim = .next u → step s = .next t →
    t.vm.cpu.pc = u.unit.next ∧ t.vm.tick.executed = s.vm.tick.executed + 1 ∧
    (let k := profSlot s.vm.cpu.pc
     t.vm.prof[k].count = s.vm.prof[k].count + 1#32 ∧
     t.vm.prof[k].address = (if s.vm.prof[k].count = 0#32 then s.vm.cpu.pc else s.vm.prof[k].address) ∧
     ∀ j : Fin 256, j ≠ k → t.vm.prof[j] = s.vm.prof[j]) ∧
    t.vm.mem = u.vm.mem ∧ t.vm.vmStatus = u.vm.vmStatus ∧ t.vm.tick.haltFlag = u.vm.tick.haltFlag ∧
    (t.vm.tick.abortFlag = true ↔
      s.vm.tick.abortFlag = true ∨ 2 * s.vm.tick.budget.toNat < s.vm.tick.executed + 1) ∧
    (t.vm.unit 0).phase =
      if 2 * s.vm.tick.budget.toNat < s.vm.tick.executed + 1 ∨ u.unit.stop = true then .left else .top

/-- R303, R305: in single-unit mode the unit leaves at the top when a flag, the status or the budget says so; at HALT_PC it
raises the halt flag and leaves with nothing fetched, counted or profiled. R202, R403, U5: while a tick runs, in either
mode and wherever its units stand, there is no step with a PC that is neither a multiple of 4 nor HALT_PC; that it is a
fault is the model's choice (log entry 8). -/
def Obligations.IterationStopsAtTheTop : Prop :=
  (∀ (s : State) (x : ExecUnit),
    s.running = true → s.cfg.nUnits = 1 → s.vm.tick.units = [x] → x.phase ≠ .left → s.vm.tick.lock = false →
    ((s.vm.cpu.pc.toNat % 4 = 0 ∨ s.vm.cpu.pc = s.cfg.haltPc) →
      s.vm.tick.haltFlag = true ∨ s.vm.tick.abortFlag = true ∨ s.vm.vmStatus ≠ .running ∨
        s.vm.tick.budget.toNat ≤ s.vm.tick.executed →
      step s = .next (s.withVm (s.vm.goto 0 .left))) ∧
    (s.vm.mayBegin = true → s.vm.cpu.pc = s.cfg.haltPc →
      step s = .next (s.withVm (s.vm.raiseHalt.goto 0 .left)))) ∧
  ∀ s : State, s.running = true → s.vm.cpu.pc.toNat % 4 ≠ 0 → s.vm.cpu.pc ≠ s.cfg.haltPc → step s = .fault .misalignedPc

/-- R316 to R319, R324: when every unit has left its loop the next step reconciles, publishes and ends the tick. Only the
CPUState, the VM status and the list of units of the VM of the tick change. The PC is one a tick may have; with any other
there is no step (R202, IterationStopsAtTheTop). -/
def Obligations.TickEndReconcilesAndPublishes : Prop :=
  ∀ s : State, s.running = true → s.cfg.nUnits ≠ 1 ∨ s.vm.tick.units.length ≤ 1 →
    (∀ x ∈ s.vm.tick.units, x.phase = .left) → (s.vm.cpu.pc.toNat % 4 = 0 ∨ s.vm.cpu.pc = s.cfg.haltPc) →
    ∃ t, step s = .next t ∧ t.running = false ∧
      t.vm.cpu.pc = s.vm.cpu.pc ∧
      t.vm.cpu.instrCount = s.vm.cpu.instrCount + BitVec.ofNat 32 s.vm.tick.executed ∧
      t.vm.cpu.cycleCount = s.vm.cpu.cycleCount + BitVec.ofNat 32 s.vm.tick.executed ∧
      (s.vm.tick.haltFlag = true → t.vm.cpu.status = ⟨false, true, false⟩ ∧ t.vm.vmStatus = .halted) ∧
      (s.vm.tick.haltFlag = false → t.vm.cpu.status = ⟨true, false, false⟩ ∧ t.vm.vmStatus = s.vm.vmStatus) ∧
      t.vm = { s.vm with cpu := t.vm.cpu, vmStatus := t.vm.vmStatus, tick := { s.vm.tick with units := [] } } ∧
      t = { s with running := false, vms := s.vms.set s.cur t.vm }

/-- R300, R301, R433: a tick of a RUNNING VM with a legal resume PC starts with the PC at the resume PC, the per-tick
state cleared, N_UNITS units at the top of their loops, and everything else as it was. With any other resume PC it has
no defined behaviour, and is refused (the model's choice, log entry 8). That the request leaves a queue is the model's
choice too (log entry 12). -/
def Obligations.TickStart : Prop :=
  ∀ (s : State) (v : VmId) (budget resumePc : Word) (rest : List HostOp),
    s.running = false → s.hostIn = .tick v budget resumePc :: rest → (s.vms[v]).vmStatus = .running →
    (¬ (resumePc.toNat % 4 = 0 ∨ resumePc = s.cfg.haltPc) → step s = .refused .badResumePc) ∧
    (resumePc.toNat % 4 = 0 ∨ resumePc = s.cfg.haltPc →
    ∃ t, step s = .next t ∧ t.running = true ∧ t.cur = v ∧ t.hostIn = rest ∧ t.vm.cpu.pc = resumePc ∧
      t.vm.tick.lock = false ∧ t.vm.tick.haltFlag = false ∧ t.vm.tick.abortFlag = false ∧ t.vm.tick.executed = 0 ∧
      t.vm.tick.budget = budget ∧ t.vm.tick.units.length = s.cfg.nUnits ∧
      (∀ x ∈ t.vm.tick.units, x.phase = .top) ∧
      t.vm = { s.vms[v] with cpu := { (s.vms[v]).cpu with pc := resumePc }, tick := t.vm.tick } ∧
      ∀ w : VmId, w ≠ v → t.vms[w] = s.vms[w])

/-- R302: a tick of a VM that is not RUNNING changes nothing: no unit claims or executes anything and no state of the
machine changes but that the host's request is gone (the queue, and that the gate comes before the check of the resume
PC, are the model's choice, log entry 12). And no step of a tick sets
a VM's status back to RUNNING. -/
def Obligations.StatusGate : Prop :=
  (∀ (s : State) (v : VmId) (budget resumePc : Word) (rest : List HostOp),
    s.running = false → s.hostIn = .tick v budget resumePc :: rest → (s.vms[v]).vmStatus ≠ .running →
    step s = .next { s with hostIn := rest }) ∧
  ∀ (s t : State) (v : VmId), s.running = true → step s = .next t → (t.vms[v]).vmStatus = .running →
    (s.vms[v]).vmStatus = .running

/-- R303 to R312, R308, R325: the loop in multi-unit mode, line by line. While some unit is in its loop, a step is one line
of such a unit, and any of them can be the one that moves; with a PC that is neither a multiple of 4 nor HALT_PC there is no
step (R202, U5; that it is a fault is the model's choice, log entry 8). Then each line: the test at the top; the lock, taken
when free, else a failed attempt and past LOCK_RETRIES the end of the unit's work; under it the sentinel, or the claim that
takes the PC and advances it by 4; the fetch; the
accesses of the instruction one by one; no commit of the computed next-address; the count; the profile record; the guard
and the end of the iteration. How fine a step is, is log entry 5. The model's choice: a fetch without a rule is refused (log
entry 8), as is, with strict_decode off, a word whose decoding depends on the policy (U1, log entry 10). -/
def Obligations.MultiUnitLoop : Prop :=
  (∀ s : State, s.running = true → s.cfg.nUnits ≠ 1 →
    let live := fun (u : Nat) => u < s.vm.tick.units.length ∧ (s.vm.unit u).phase ≠ .left
    let moves := fun (r : State) (u : Nat) =>
      (match unitStep r.cfg r.ctx r.sched u with
      | .next (c, n) => .next { r.withCtx { c with vm := c.vm.setTurn (Config.schedule n) } with sched := n + 1 }
      | .fault f => .fault f
      | .refused e => .refused e : Host.Outcome State Fault Refusal)
    let legal := s.vm.cpu.pc.toNat % 4 = 0 ∨ s.vm.cpu.pc = s.cfg.haltPc
    (¬ legal → step s = .fault .misalignedPc) ∧
    (legal → (∃ u, live u) → ∃ u, live u ∧ step s = moves s u) ∧
    (legal → ∀ u, live u → ∃ k, step (s.withVm (s.vm.setTurn k)) = moves (s.withVm (s.vm.setTurn k)) u)) ∧
  (∀ (cfg : Config) (c : Ctx) (n u : Nat), u < c.vm.tick.units.length → cfg.nUnits ≠ 1 →
    let vm := c.vm
    let x := vm.unit u
    let next := fun (vm' : VM) => unitStep cfg c n u = .next ({ c with vm := vm' }, n)
    let withTick := fun (f : Tick → Tick) => ({ vm with tick := f vm.tick } : VM)
    (x.phase = .top →
      next (vm.setUnit u (if vm.tick.haltFlag = false ∧ vm.tick.abortFlag = false ∧ vm.vmStatus = .running ∧
          vm.tick.executed < vm.tick.budget.toNat then { x with phase := .acquire, retries := 0 }
        else { x with phase := .left }))) ∧
    (x.phase = .acquire → vm.tick.lock = false →
      next ((withTick fun k => { k with lock := true }).setUnit u { x with phase := .locked })) ∧
    (x.phase = .acquire → vm.tick.lock = true →
      next (vm.setUnit u { x with
        retries := x.retries + 1
        phase := if cfg.lockRetries < x.retries + 1 then .left else .acquire })) ∧
    (x.phase = .locked → vm.cpu.pc = cfg.haltPc →
      next ((withTick fun k => { k with lock := false, haltFlag := true }).setUnit u { x with phase := .left })) ∧
    (x.phase = .locked → vm.cpu.pc ≠ cfg.haltPc →
      next (({ withTick fun k => { k with lock := false } with cpu := { vm.cpu with pc := vm.cpu.pc + 4#32 } } : VM).setUnit
        u { x with phase := .fetch, ia := vm.cpu.pc })) ∧
    (x.phase = .fetch → ∀ w, fetchWord cfg vm x.ia = .ok w →
      (decodable cfg w = true → next (vm.setUnit u { x with phase := .run, word := w, got := [], part := .none })) ∧
      (decodable cfg w = false → unitStep cfg c n u = .refused .looseDecode)) ∧
    (x.phase = .fetch → ∀ r, fetchWord cfg vm x.ia = .error r → unitStep cfg c n u = .refused r) ∧
    (x.phase = .run → ∀ e k, x.rest cfg = .op e k →
      unitStep cfg c n u = (match accessEvent cfg e c x.part n with
        | .ok (.complete v, d, m) =>
          .next ({ d with vm := d.vm.setUnit u { x with got := x.got ++ [v], part := .none } }, m)
        | .ok (.partly p, d, m) => .next ({ d with vm := d.vm.setUnit u { x with part := p } }, m)
        | .error r => .refused r)) ∧
    (x.phase = .run → ∀ pc' stop, x.rest cfg = .ret pc' stop →
      next (vm.setUnit u { x with phase := .commit, next := pc', stop := stop })) ∧
    (x.phase = .commit → next (vm.setUnit u { x with phase := .count })) ∧
    (x.phase = .count →
      next ((withTick fun k => { k with executed := k.executed + 1 }).setUnit u { x with phase := .profile })) ∧
    (x.phase = .profile → next ((vm.profRecord x.ia).setUnit u { x with phase := .guard })) ∧
    (x.phase = .guard → 2 * vm.tick.budget.toNat < vm.tick.executed →
      next ((withTick fun k => { k with abortFlag := true }).setUnit u { x with phase := .left })) ∧
    (x.phase = .guard → vm.tick.executed ≤ 2 * vm.tick.budget.toNat →
      next (vm.setUnit u { x with phase := if x.stop then .left else .top })))

/-- R12, R68, R74, R307: a unit alone. Whatever order two source registers are read in, a ring slot is filled in and the bytes
of a misaligned access go in, and whether a sub-word store is a read-modify-write or not, the accesses of an instruction that no other unit comes between leave the VM as `exec`'s
accesses do, with the same next-address and stop. -/
def Obligations.AccessEventsAloneGiveTheInstruction : Prop :=
  ∀ (cfg : Config) (c : Ctx) (n u : Nat) (d : Done), c.vm.mem.wf = true → u < c.vm.tick.units.length →
    let x := c.vm.unit u
    x.phase = .run → x.got = [] → x.part = .none →
    (meaningOf (decodeWord cfg.fpCodes x.word) cfg x.ia).run cfg c = .ok d →
    ∃ k n' got,
      let y : ExecUnit := { x with phase := .commit, got := got, part := .none, next := d.next, stop := d.stop }
      accessRun cfg u k (c, n) = .next ({ d.ctx with vm := d.ctx.vm.setUnit u y }, n')

/-- How an instruction comes to run where nothing is loaded (log entry 14, the model's own): a word placed by
`withFetchWord` is the one the very next step decodes and executes, in every well-formed state whose configuration
decodes the word (with strict_decode, every word). -/
def Obligations.PlacedWordRunsNext : Prop :=
  ∀ (s : State) (w : Word), s.Wf → decodable s.cfg w = true →
    let p := s.withFetchWord 32 w.toNat
    fetchWord p.cfg p.vm p.vm.cpu.pc = .ok w ∧
    step p = (match exec (decodeWord s.cfg.fpCodes w) p.claim with
      | .next t => .next t.finish
      | .fault f => .fault f
      | .refused r => .refused r)

/-! ### Invariants -/

/-- R20, R32, R36, R43, R60, R70, R300, R320, R340: every step keeps a well-formed state well-formed. -/
def Obligations.StepKeepsWellFormedness : Prop :=
  ∀ s t : State, s.Wf → step s = .next t → t.Wf

/-- The state after reset is well formed and meets the scheduler's invariants. Its values that the spec does not give are
the model's choice (log entries 1 to 3). -/
def Obligations.ResetMeetsTheInvariants : Prop :=
  State.reset.Wf ∧ State.reset.LockExclusive ∧ State.reset.WithinBudget ∧ State.reset.ClaimsInOrder ∧
    State.reset.Progress ∧ State.reset.ProfAligned

/-- R9, R37, R304, R306: the lock is exclusive: it is held exactly while one unit stands under it. -/
def Obligations.LockIsExclusive : Prop :=
  ∀ s t : State, s.Wf → s.LockExclusive → step s = .next t → t.LockExclusive

/-- R303, R310, R312, R322: at most budget + N_UNITS - 1 instructions are executed in a tick. -/
def Obligations.BudgetIsABound : Prop :=
  ∀ s t : State, s.Wf → s.WithinBudget → step s = .next t → t.WithinBudget

/-- R306, R309, R319, R322: in multi-unit mode the PC moves by 4 for every claim and in no other way, jumps or not, and
no two units execute the same address. -/
def Obligations.ClaimsAreContiguousAndDistinct : Prop :=
  ∀ s t : State, s.Wf → s.cfg.nUnits ≠ 1 → s.ClaimsInOrder → step s = .next t → t.ClaimsInOrder

/-- R304, R308, R322, R324: a tick that raises no halt flag and queues no ECALL executes at least `budget` instructions:
every step keeps the progress invariant, and when a tick ends either the VM was stopped or the budget was used. -/
def Obligations.UnstoppedTickUsesItsBudget : Prop :=
  ∀ s t : State, s.Wf → s.LockExclusive → s.Progress → step s = .next t →
    t.Progress ∧
    (s.running = true → t.running = false → s.vm.tick.haltFlag = true ∨ s.vm.vmStatus ≠ .running ∨
      s.vm.tick.budget.toNat ≤ s.vm.tick.executed)

/-- R375: only profiler slots whose number is a multiple of 4 are ever written. -/
def Obligations.ProfilerSlotsAreAligned : Prop :=
  ∀ s t : State, s.Wf → s.ProfAligned → step s = .next t → t.ProfAligned

/-- R320, R321: a single-unit tick ends: within the instructions its budget leaves, and two steps more, the tick is over
or the machine has stopped, on an access without meaning or on a PC that no tick may have. -/
def Obligations.SingleUnitTickEnds : Prop :=
  ∀ s : State, s.Wf → s.running = true → s.cfg.nUnits = 1 →
    ∃ k, k ≤ s.vm.tick.budget.toNat - s.vm.tick.executed + 2 ∧
      (∀ t, core.run k s = .next t → t.running = false)

/-- R61, R350, R360, R367, R376, R404: while a tick runs, a step touches no other VM, not the protection table or its
counters, and neither reads nor answers the host. That no operation of the host and no tick of another VM falls among the
steps of a tick is the model's (log entries 12, a DESIGN CHOICE, and 16, DEDUCED). -/
def Obligations.StepTouchesOnlyTheRunningVm : Prop :=
  ∀ s t : State, s.running = true → step s = .next t →
    t.cfg = s.cfg ∧ t.cur = s.cur ∧ t.regions = s.regions ∧ t.counters = s.counters ∧ t.hostIn = s.hostIn ∧
    t.hostOut = s.hostOut ∧ ∀ v : VmId, v ≠ s.cur → t.vms[v] = s.vms[v]

/-- R61, R350, R376: what a running VM does depends on nothing of the other VMs, the protection table or the host: two
states that agree on the running VM, the configuration and the free values go on alike. -/
def Obligations.RunningVmSeesNothingElse : Prop :=
  ∀ s r t : State, s.running = true → r.running = true → s.cfg = r.cfg → s.cur = r.cur → s.free = r.free →
    s.sched = r.sched → s.vm = r.vm → step s = .next t →
    ∃ q, step r = .next q ∧ q.vm = t.vm ∧ q.running = t.running ∧ q.free = t.free ∧ q.sched = t.sched

/-! ### The protection validator -/

/-- R343 to R348: the class of a request, said over its bytes. OUT_OF_BOUNDS past the limit; then READ_ONLY for a write
to a byte of a read-only region, or of a kernel region by a non-zero requester (reads and executes too with
kernel_check_kinds set); then ISOLATION for a byte of an isolated region of another owner; else ALLOWED. With ADDR_LIMIT
above 2^32 this lets a request that wraps past 2^32 through the first test, which is the model's choice (log entry 24). -/
def Obligations.ClassOfARequest : Prop :=
  ∀ (cfg : Config) (table : List Region) (q : ProtRequest),
    let inside := fun (r : Region) => ∃ b : Nat, q.address.toNat ≤ b ∧ b < q.address.toNat + q.size.toNat ∧
      r.origin.toNat ≤ b ∧ b < r.origin.toNat + r.extent.toNat
    let beyond := cfg.addrLimit < q.address.toNat + q.size.toNat
    let unwritable := ∃ r ∈ table, inside r ∧
      ((q.kind = .write ∧ r.flags.readOnly = true) ∨
        ((q.kind = .write ∨ cfg.kernelCheckAll = true) ∧ r.flags.kernel = true ∧ q.requester ≠ 0#32))
    let foreign := ∃ r ∈ table, inside r ∧ r.flags.isolated = true ∧ q.requester ≠ r.owner
    (classify cfg table q = .outOfBounds ↔ beyond) ∧
    (classify cfg table q = .readOnly ↔ ¬ beyond ∧ unwritable) ∧
    (classify cfg table q = .isolation ↔ ¬ beyond ∧ ¬ unwritable ∧ foreign) ∧
    (classify cfg table q = .allowed ↔ ¬ beyond ∧ ¬ unwritable ∧ ¬ foreign)

/-- R342, R348, R350: a check answers its class, counts it, and changes nothing of any VM or of the table. That the request
is taken from one queue and the answer put on another is the model's choice (log entry 12). -/
def Obligations.CheckCountsAndAnswers : Prop :=
  ∀ (s : State) (q : ProtRequest) (rest : List HostOp), s.running = false → s.hostIn = .check q :: rest →
    let r := classify s.cfg s.regions q
    step s = .next { s with
      hostIn := rest
      hostOut := s.hostOut ++ [.checked r]
      counters :=
        { nChecks := s.counters.nChecks + 1#32
          nAllowed := s.counters.nAllowed + (if r = .allowed then 1#32 else 0#32)
          nReadOnly := s.counters.nReadOnly + (if r = .readOnly then 1#32 else 0#32)
          nOutOfBounds := s.counters.nOutOfBounds + (if r = .outOfBounds then 1#32 else 0#32)
          nIsolation := s.counters.nIsolation + (if r = .isolation then 1#32 else 0#32) } }

/-- R352: the worked cases, with ADDR_LIMIT = 0x10000 and the regions A, B, C. -/
def Obligations.ValidatorWorkedCases : Prop :=
  let off : RegionFlags := ⟨false, false, false, false, false⟩
  let table : List Region :=
    [⟨0x1000#32, 0x1000#32, { off with readOnly := true }, 0#32⟩,
     ⟨0x4000#32, 0x100#32, { off with isolated := true }, 2#32⟩,
     ⟨0x8000#32, 0x1000#32, { off with kernel := true }, 0#32⟩]
  let requests : List ProtRequest :=
    [⟨0x1000#32, .write, 0#32, 4#32⟩, ⟨0x1000#32, .read, 7#32, 4#32⟩, ⟨0x0FFE#32, .write, 1#32, 4#32⟩,
     ⟨0x0FFC#32, .write, 1#32, 4#32⟩, ⟨0x1FFF#32, .execute, 3#32, 1#32⟩, ⟨0xFFFE#32, .read, 0#32, 4#32⟩,
     ⟨0xFFFC#32, .read, 0#32, 4#32⟩, ⟨0xFFFFFFFF#32, .read, 0#32, 2#32⟩, ⟨0x4000#32, .read, 2#32, 4#32⟩,
     ⟨0x4000#32, .read, 0#32, 4#32⟩, ⟨0x4010#32, .write, 3#32, 1#32⟩, ⟨0x8000#32, .write, 0#32, 4#32⟩,
     ⟨0x8000#32, .write, 5#32, 4#32⟩, ⟨0x8000#32, .read, 5#32, 4#32⟩, ⟨0x2000#32, .write, 9#32, 0x100#32⟩,
     ⟨0x5000#32, .write, 9#32, 0#32⟩]
  ∀ cfg : Config, cfg.addrLimit = 0x10000 → cfg.kernelCheckAll = false →
    requests.map (classify cfg table) =
      [.readOnly, .allowed, .readOnly, .allowed, .allowed, .outOfBounds, .allowed, .outOfBounds, .allowed, .isolation,
       .isolation, .allowed, .readOnly, .allowed, .allowed, .allowed] ∧
    (requests.map (classify cfg table)).foldl ProtCounters.count ⟨0#32, 0#32, 0#32, 0#32, 0#32⟩ =
      ⟨16#32, 9#32, 3#32, 2#32, 2#32⟩

/-! ### The profiler and the host -/

/-- R372: a record adds one to the count of the slot address mod 256, modulo 2^32, stores the address exactly when the
count was 0, and leaves the other slots. -/
def Obligations.ProfilerRecord : Prop :=
  ∀ (vm : VM) (a : Word) (k : Fin 256),
    (vm.profRecord a).prof[k] =
      if k.val = a.toNat % 256 then
        ⟨if (vm.prof[k]).count = 0#32 then a else (vm.prof[k]).address, (vm.prof[k]).count + 1#32⟩
      else vm.prof[k]

/-- R432, R83: an image that fits is put at IMAGE_BASE byte by byte and changes nothing else, but that the request is taken
from the queue (log entry 12); it acts on memory itself at addresses of the display window too (log entry 20). One that
does not fit is refused (log entry 8). These three are the model's choice. -/
def Obligations.ImageLoad : Prop :=
  ∀ (s : State) (v : VmId) (bytes : List Byte) (rest : List HostOp), s.running = false →
    s.hostIn = .loadImage v bytes :: rest → (s.vms[v]).mem.wf = true →
    (s.cfg.memSize < s.cfg.imageBase + bytes.length → step s = .refused .hostOutOfRange) ∧
    (s.cfg.imageBase + bytes.length ≤ s.cfg.memSize → ∃ m : Memory,
      step s = .next { s with hostIn := rest, vms := s.vms.set v { s.vms[v] with mem := m } } ∧
      (∀ k, (h : k < bytes.length) → m.get (s.cfg.imageBase + k) = bytes[k]) ∧
      (∀ a, a < s.cfg.imageBase ∨ s.cfg.imageBase + bytes.length ≤ a → m.get a = (s.vms[v]).mem.get a))

/-- R83, R340, R342, R349, R361 to R363, R365, R368, R373, R374, R377: what the host's other operations answer and change.
Each step takes the request from the queue. The model's choice: the queues and the form of the answers (log entry 12); the
zero memory, pc, ring and console that CreateVM leaves where R430 gives none (log entries 2 and 3); HostRead and HostWrite
act on memory itself, the window included (log entry 20), and outside memory they are refused (log entry 8); the region
table is set and read whole, up to MAX_REGIONS entries (log entry 18); teardown does nothing (log entry 15). -/
def Obligations.HostOperations : Prop :=
  ∀ (s : State) (v : VmId) (rest : List HostOp), s.running = false →
    let vm := s.vms[v]
    let answers := fun (r : HostReply) => (.next { s with hostIn := rest, hostOut := s.hostOut ++ [r] } :
      Host.Outcome State Fault Refusal)
    let becomes := fun (x : VM) => (.next { s with hostIn := rest, vms := s.vms.set v x } :
      Host.Outcome State Fault Refusal)
    (s.hostIn = .snapshot v :: rest → step s = answers (.cpuState vm.cpu)) ∧
    (s.hostIn = .readVmStatus v :: rest → step s = answers (.vmStatus vm.vmStatus)) ∧
    (∀ st, s.hostIn = .setVmStatus v st :: rest → step s = becomes { vm with vmStatus := st }) ∧
    (∀ k, s.hostIn = .readRing v k :: rest → step s = answers (.ringEntry vm.ring[k])) ∧
    (s.hostIn = .readRingCtr v :: rest → step s = answers (.ringCtr vm.ringCtr)) ∧
    (∀ k w, s.hostIn = .writeResult v k w :: rest →
      step s = becomes { vm with ring := vm.ring.set k { vm.ring[k] with result := w } }) ∧
    (s.hostIn = .drainConsole v :: rest → step s = .next { s with
      hostIn := rest, hostOut := s.hostOut ++ [.consoleBytes vm.consoleText],
      vms := s.vms.set v { vm with consoleLen := 0 } }) ∧
    (∀ k, s.hostIn = .readProf v k :: rest →
      step s = answers (.profEntry vm.prof[k] (decide (s.cfg.hotThreshold ≤ (vm.prof[k]).count.toNat)))) ∧
    (s.hostIn = .resetProf v :: rest → step s = becomes { vm with prof := Vector.replicate 256 ⟨0#32, 0#32⟩ }) ∧
    (s.hostIn = .createVM v :: rest → step s = becomes (VM.reset s.cfg.consoleCap)) ∧
    (∀ a n, s.hostIn = .hostRead v a n :: rest → a.toNat + n.bytes ≤ s.cfg.memSize →
      step s = answers (.value (vm.mem.load a.toNat n))) ∧
    (∀ a n w, s.hostIn = .hostWrite v a n w :: rest → a.toNat + n.bytes ≤ s.cfg.memSize →
      step s = becomes { vm with mem := vm.mem.store a.toNat n w }) ∧
    (∀ a n w, s.hostIn = .hostRead v a n :: rest ∨ s.hostIn = .hostWrite v a n w :: rest →
      s.cfg.memSize < a.toNat + n.bytes → step s = .refused .hostOutOfRange) ∧
    (s.hostIn = .readRegions :: rest → step s = answers (.regions s.regions)) ∧
    (s.hostIn = .teardown v :: rest → step s = .next { s with hostIn := rest }) ∧
    (∀ table, s.hostIn = .setRegions table :: rest → table.length ≤ s.cfg.maxRegions →
      step s = .next { s with hostIn := rest, regions := table }) ∧
    (∀ table, s.hostIn = .setRegions table :: rest → s.cfg.maxRegions < table.length →
      step s = .refused .tooManyRegions) ∧
    (s.hostIn = .readCounters :: rest → step s = answers (.counters s.counters))

/-- R33, R34, R42 to R44, R47, R351, R430: the values the spec gives after VM creation. That every VM of the reset state is
one after its creation is the model's choice (log entry 23). -/
def Obligations.ResetValues : Prop :=
  (∀ v : VmId, (State.reset.vms[v]).cpu.status = ⟨true, false, false⟩ ∧ (State.reset.vms[v]).cpu.instrCount = 0#32 ∧
    (State.reset.vms[v]).cpu.cycleCount = 0#32 ∧ (State.reset.vms[v]).vmStatus = .running ∧
    (State.reset.vms[v]).ringCtr = 0#32 ∧ (State.reset.vms[v]).consoleLen = 0 ∧
    (State.reset.vms[v]).tick.lock = false ∧ (State.reset.vms[v]).tick.haltFlag = false ∧
    (State.reset.vms[v]).tick.abortFlag = false ∧ (State.reset.vms[v]).tick.executed = 0 ∧
    (∀ k : Fin 256, (State.reset.vms[v]).prof[k] = ⟨0#32, 0#32⟩) ∧ (State.reset.vms[v]).reg 0#5 = 0#32) ∧
  State.reset.regions = [] ∧ State.reset.counters = ⟨0#32, 0#32, 0#32, 0#32, 0#32⟩
end

