-- ==== Sys2Proof/Laws/Decode.lean ====
section
/-! SUPPORT. The bits of an encoded word, format by format: which field the decoder reads back from each format. -/

namespace Sys2Proof

/-! ### r format -/

theorem Format.r_bit (f7 : BitVec 7) (rs2 rs1 : RegIx) (f3 : BitVec 3) (rd : RegIx) (op : BitVec 7) (k : Nat) :
    (Format.r f7 rs2 rs1 f3 rd op).getLsbD k =
      (f7 ++ rs2 ++ rs1 ++ f3 ++ rd ++ op :
        BitVec (7 + 5 + 5 + 3 + 5 + 7)).getLsbD k := rfl

@[simp] theorem Format.r_opcode (f7 : BitVec 7) (rs2 rs1 : RegIx) (f3 : BitVec 3) (rd : RegIx) (op : BitVec 7) :
    Fields.opcode (Format.r f7 rs2 rs1 f3 rd op) = op := by
  refine BitVec.eq_of_getLsbD_eq fun k hk => ?_
  simp only [Fields.opcode, BitVec.getLsbD_extractLsb', Format.r_bit, BitVec.getLsbD_append]
  interval_cases k <;> simp

@[simp] theorem Format.r_rd (f7 : BitVec 7) (rs2 rs1 : RegIx) (f3 : BitVec 3) (rd : RegIx) (op : BitVec 7) :
    Fields.rd (Format.r f7 rs2 rs1 f3 rd op) = rd := by
  refine BitVec.eq_of_getLsbD_eq fun k hk => ?_
  simp only [Fields.rd, BitVec.getLsbD_extractLsb', Format.r_bit, BitVec.getLsbD_append]
  interval_cases k <;> simp

@[simp] theorem Format.r_funct3 (f7 : BitVec 7) (rs2 rs1 : RegIx) (f3 : BitVec 3) (rd : RegIx) (op : BitVec 7) :
    Fields.funct3 (Format.r f7 rs2 rs1 f3 rd op) = f3 := by
  refine BitVec.eq_of_getLsbD_eq fun k hk => ?_
  simp only [Fields.funct3, BitVec.getLsbD_extractLsb', Format.r_bit, BitVec.getLsbD_append]
  interval_cases k <;> simp

@[simp] theorem Format.r_rs1 (f7 : BitVec 7) (rs2 rs1 : RegIx) (f3 : BitVec 3) (rd : RegIx) (op : BitVec 7) :
    Fields.rs1 (Format.r f7 rs2 rs1 f3 rd op) = rs1 := by
  refine BitVec.eq_of_getLsbD_eq fun k hk => ?_
  simp only [Fields.rs1, BitVec.getLsbD_extractLsb', Format.r_bit, BitVec.getLsbD_append]
  interval_cases k <;> simp

@[simp] theorem Format.r_rs2 (f7 : BitVec 7) (rs2 rs1 : RegIx) (f3 : BitVec 3) (rd : RegIx) (op : BitVec 7) :
    Fields.rs2 (Format.r f7 rs2 rs1 f3 rd op) = rs2 := by
  refine BitVec.eq_of_getLsbD_eq fun k hk => ?_
  simp only [Fields.rs2, BitVec.getLsbD_extractLsb', Format.r_bit, BitVec.getLsbD_append]
  interval_cases k <;> simp

@[simp] theorem Format.r_funct7 (f7 : BitVec 7) (rs2 rs1 : RegIx) (f3 : BitVec 3) (rd : RegIx) (op : BitVec 7) :
    Fields.funct7 (Format.r f7 rs2 rs1 f3 rd op) = f7 := by
  refine BitVec.eq_of_getLsbD_eq fun k hk => ?_
  simp only [Fields.funct7, BitVec.getLsbD_extractLsb', Format.r_bit, BitVec.getLsbD_append]
  interval_cases k <;> simp

/-! ### i format -/

theorem Format.i_bit (imm : BitVec 12) (rs1 : RegIx) (f3 : BitVec 3) (rd : RegIx) (op : BitVec 7) (k : Nat) :
    (Format.i imm rs1 f3 rd op).getLsbD k =
      (imm ++ rs1 ++ f3 ++ rd ++ op :
        BitVec (12 + 5 + 3 + 5 + 7)).getLsbD k := rfl

@[simp] theorem Format.i_opcode (imm : BitVec 12) (rs1 : RegIx) (f3 : BitVec 3) (rd : RegIx) (op : BitVec 7) :
    Fields.opcode (Format.i imm rs1 f3 rd op) = op := by
  refine BitVec.eq_of_getLsbD_eq fun k hk => ?_
  simp only [Fields.opcode, BitVec.getLsbD_extractLsb', Format.i_bit, BitVec.getLsbD_append]
  interval_cases k <;> simp

@[simp] theorem Format.i_rd (imm : BitVec 12) (rs1 : RegIx) (f3 : BitVec 3) (rd : RegIx) (op : BitVec 7) :
    Fields.rd (Format.i imm rs1 f3 rd op) = rd := by
  refine BitVec.eq_of_getLsbD_eq fun k hk => ?_
  simp only [Fields.rd, BitVec.getLsbD_extractLsb', Format.i_bit, BitVec.getLsbD_append]
  interval_cases k <;> simp

@[simp] theorem Format.i_funct3 (imm : BitVec 12) (rs1 : RegIx) (f3 : BitVec 3) (rd : RegIx) (op : BitVec 7) :
    Fields.funct3 (Format.i imm rs1 f3 rd op) = f3 := by
  refine BitVec.eq_of_getLsbD_eq fun k hk => ?_
  simp only [Fields.funct3, BitVec.getLsbD_extractLsb', Format.i_bit, BitVec.getLsbD_append]
  interval_cases k <;> simp

@[simp] theorem Format.i_rs1 (imm : BitVec 12) (rs1 : RegIx) (f3 : BitVec 3) (rd : RegIx) (op : BitVec 7) :
    Fields.rs1 (Format.i imm rs1 f3 rd op) = rs1 := by
  refine BitVec.eq_of_getLsbD_eq fun k hk => ?_
  simp only [Fields.rs1, BitVec.getLsbD_extractLsb', Format.i_bit, BitVec.getLsbD_append]
  interval_cases k <;> simp

@[simp] theorem Format.i_imm12I (imm : BitVec 12) (rs1 : RegIx) (f3 : BitVec 3) (rd : RegIx) (op : BitVec 7) :
    Fields.imm12I (Format.i imm rs1 f3 rd op) = imm := by
  refine BitVec.eq_of_getLsbD_eq fun k hk => ?_
  simp only [Fields.imm12I, BitVec.getLsbD_extractLsb', Format.i_bit, BitVec.getLsbD_append]
  interval_cases k <;> simp

/-! ### s format -/

theorem Format.s_bit (imm : BitVec 12) (rs2 rs1 : RegIx) (f3 : BitVec 3) (op : BitVec 7) (k : Nat) :
    (Format.s imm rs2 rs1 f3 op).getLsbD k =
      (imm.extractLsb' 5 7 ++ rs2 ++ rs1 ++ f3 ++ imm.extractLsb' 0 5 ++ op :
        BitVec (7 + 5 + 5 + 3 + 5 + 7)).getLsbD k := rfl

@[simp] theorem Format.s_opcode (imm : BitVec 12) (rs2 rs1 : RegIx) (f3 : BitVec 3) (op : BitVec 7) :
    Fields.opcode (Format.s imm rs2 rs1 f3 op) = op := by
  refine BitVec.eq_of_getLsbD_eq fun k hk => ?_
  simp only [Fields.opcode, BitVec.getLsbD_extractLsb', Format.s_bit, BitVec.getLsbD_append]
  interval_cases k <;> simp

@[simp] theorem Format.s_funct3 (imm : BitVec 12) (rs2 rs1 : RegIx) (f3 : BitVec 3) (op : BitVec 7) :
    Fields.funct3 (Format.s imm rs2 rs1 f3 op) = f3 := by
  refine BitVec.eq_of_getLsbD_eq fun k hk => ?_
  simp only [Fields.funct3, BitVec.getLsbD_extractLsb', Format.s_bit, BitVec.getLsbD_append]
  interval_cases k <;> simp

@[simp] theorem Format.s_rs1 (imm : BitVec 12) (rs2 rs1 : RegIx) (f3 : BitVec 3) (op : BitVec 7) :
    Fields.rs1 (Format.s imm rs2 rs1 f3 op) = rs1 := by
  refine BitVec.eq_of_getLsbD_eq fun k hk => ?_
  simp only [Fields.rs1, BitVec.getLsbD_extractLsb', Format.s_bit, BitVec.getLsbD_append]
  interval_cases k <;> simp

@[simp] theorem Format.s_rs2 (imm : BitVec 12) (rs2 rs1 : RegIx) (f3 : BitVec 3) (op : BitVec 7) :
    Fields.rs2 (Format.s imm rs2 rs1 f3 op) = rs2 := by
  refine BitVec.eq_of_getLsbD_eq fun k hk => ?_
  simp only [Fields.rs2, BitVec.getLsbD_extractLsb', Format.s_bit, BitVec.getLsbD_append]
  interval_cases k <;> simp

@[simp] theorem Format.s_imm12S (imm : BitVec 12) (rs2 rs1 : RegIx) (f3 : BitVec 3) (op : BitVec 7) :
    Fields.imm12S (Format.s imm rs2 rs1 f3 op) = imm := by
  rw [Fields.imm12S]
  have key : ∀ k, (BitVec.getLsbD (w := 7 + 5)
      ((Format.s imm rs2 rs1 f3 op).extractLsb' 25 7 ++ (Format.s imm rs2 rs1 f3 op).extractLsb' 7 5) k) =
      if k < 5 then (Format.s imm rs2 rs1 f3 op).getLsbD (7 + k)
      else decide (k - 5 < 7) && (Format.s imm rs2 rs1 f3 op).getLsbD (25 + (k - 5)) := by
    intro k; rw [BitVec.getLsbD_append]; split <;> simp_all
  refine BitVec.eq_of_getLsbD_eq fun k hk => (key k).trans ?_
  simp only [Format.s_bit, BitVec.getLsbD_append, BitVec.getLsbD_extractLsb']
  interval_cases k <;> simp

/-! ### b format -/

theorem Format.b_bit (off : BitVec 13) (rs2 rs1 : RegIx) (f3 : BitVec 3) (op : BitVec 7) (k : Nat) :
    (Format.b off rs2 rs1 f3 op).getLsbD k =
      (off.extractLsb' 12 1 ++ off.extractLsb' 5 6 ++ rs2 ++ rs1 ++ f3 ++ off.extractLsb' 1 4 ++ off.extractLsb' 11 1 ++ op :
        BitVec (1 + 6 + 5 + 5 + 3 + 4 + 1 + 7)).getLsbD k := rfl

@[simp] theorem Format.b_opcode (off : BitVec 13) (rs2 rs1 : RegIx) (f3 : BitVec 3) (op : BitVec 7) :
    Fields.opcode (Format.b off rs2 rs1 f3 op) = op := by
  refine BitVec.eq_of_getLsbD_eq fun k hk => ?_
  simp only [Fields.opcode, BitVec.getLsbD_extractLsb', Format.b_bit, BitVec.getLsbD_append]
  interval_cases k <;> simp

@[simp] theorem Format.b_funct3 (off : BitVec 13) (rs2 rs1 : RegIx) (f3 : BitVec 3) (op : BitVec 7) :
    Fields.funct3 (Format.b off rs2 rs1 f3 op) = f3 := by
  refine BitVec.eq_of_getLsbD_eq fun k hk => ?_
  simp only [Fields.funct3, BitVec.getLsbD_extractLsb', Format.b_bit, BitVec.getLsbD_append]
  interval_cases k <;> simp

@[simp] theorem Format.b_rs1 (off : BitVec 13) (rs2 rs1 : RegIx) (f3 : BitVec 3) (op : BitVec 7) :
    Fields.rs1 (Format.b off rs2 rs1 f3 op) = rs1 := by
  refine BitVec.eq_of_getLsbD_eq fun k hk => ?_
  simp only [Fields.rs1, BitVec.getLsbD_extractLsb', Format.b_bit, BitVec.getLsbD_append]
  interval_cases k <;> simp

@[simp] theorem Format.b_rs2 (off : BitVec 13) (rs2 rs1 : RegIx) (f3 : BitVec 3) (op : BitVec 7) :
    Fields.rs2 (Format.b off rs2 rs1 f3 op) = rs2 := by
  refine BitVec.eq_of_getLsbD_eq fun k hk => ?_
  simp only [Fields.rs2, BitVec.getLsbD_extractLsb', Format.b_bit, BitVec.getLsbD_append]
  interval_cases k <;> simp

/-! ### u format -/

theorem Format.u_bit (imm : BitVec 20) (rd : RegIx) (op : BitVec 7) (k : Nat) :
    (Format.u imm rd op).getLsbD k =
      (imm ++ rd ++ op :
        BitVec (20 + 5 + 7)).getLsbD k := rfl

@[simp] theorem Format.u_opcode (imm : BitVec 20) (rd : RegIx) (op : BitVec 7) :
    Fields.opcode (Format.u imm rd op) = op := by
  refine BitVec.eq_of_getLsbD_eq fun k hk => ?_
  simp only [Fields.opcode, BitVec.getLsbD_extractLsb', Format.u_bit, BitVec.getLsbD_append]
  interval_cases k <;> simp

@[simp] theorem Format.u_rd (imm : BitVec 20) (rd : RegIx) (op : BitVec 7) :
    Fields.rd (Format.u imm rd op) = rd := by
  refine BitVec.eq_of_getLsbD_eq fun k hk => ?_
  simp only [Fields.rd, BitVec.getLsbD_extractLsb', Format.u_bit, BitVec.getLsbD_append]
  interval_cases k <;> simp

@[simp] theorem Format.u_imm20U (imm : BitVec 20) (rd : RegIx) (op : BitVec 7) :
    Fields.imm20U (Format.u imm rd op) = imm := by
  refine BitVec.eq_of_getLsbD_eq fun k hk => ?_
  simp only [Fields.imm20U, BitVec.getLsbD_extractLsb', Format.u_bit, BitVec.getLsbD_append]
  interval_cases k <;> simp

/-! ### j format -/

theorem Format.j_bit (off : BitVec 21) (rd : RegIx) (op : BitVec 7) (k : Nat) :
    (Format.j off rd op).getLsbD k =
      (off.extractLsb' 20 1 ++ off.extractLsb' 1 10 ++ off.extractLsb' 11 1 ++ off.extractLsb' 12 8 ++ rd ++ op :
        BitVec (1 + 10 + 1 + 8 + 5 + 7)).getLsbD k := rfl

@[simp] theorem Format.j_opcode (off : BitVec 21) (rd : RegIx) (op : BitVec 7) :
    Fields.opcode (Format.j off rd op) = op := by
  refine BitVec.eq_of_getLsbD_eq fun k hk => ?_
  simp only [Fields.opcode, BitVec.getLsbD_extractLsb', Format.j_bit, BitVec.getLsbD_append]
  interval_cases k <;> simp

@[simp] theorem Format.j_rd (off : BitVec 21) (rd : RegIx) (op : BitVec 7) :
    Fields.rd (Format.j off rd op) = rd := by
  refine BitVec.eq_of_getLsbD_eq fun k hk => ?_
  simp only [Fields.rd, BitVec.getLsbD_extractLsb', Format.j_bit, BitVec.getLsbD_append]
  interval_cases k <;> simp

/-! ### shift format -/

theorem Format.shift_bit (arith : BitVec 1) (hi : BitVec 6) (shamt : BitVec 5) (rs1 : RegIx) (f3 : BitVec 3) (rd : RegIx) (op : BitVec 7) (k : Nat) :
    (Format.shift arith hi shamt rs1 f3 rd op).getLsbD k =
      (hi.extractLsb' 5 1 ++ arith ++ hi.extractLsb' 0 5 ++ shamt ++ rs1 ++ f3 ++ rd ++ op :
        BitVec (1 + 1 + 5 + 5 + 5 + 3 + 5 + 7)).getLsbD k := rfl

@[simp] theorem Format.shift_opcode (arith : BitVec 1) (hi : BitVec 6) (shamt : BitVec 5) (rs1 : RegIx) (f3 : BitVec 3) (rd : RegIx) (op : BitVec 7) :
    Fields.opcode (Format.shift arith hi shamt rs1 f3 rd op) = op := by
  refine BitVec.eq_of_getLsbD_eq fun k hk => ?_
  simp only [Fields.opcode, BitVec.getLsbD_extractLsb', Format.shift_bit, BitVec.getLsbD_append]
  interval_cases k <;> simp

@[simp] theorem Format.shift_rd (arith : BitVec 1) (hi : BitVec 6) (shamt : BitVec 5) (rs1 : RegIx) (f3 : BitVec 3) (rd : RegIx) (op : BitVec 7) :
    Fields.rd (Format.shift arith hi shamt rs1 f3 rd op) = rd := by
  refine BitVec.eq_of_getLsbD_eq fun k hk => ?_
  simp only [Fields.rd, BitVec.getLsbD_extractLsb', Format.shift_bit, BitVec.getLsbD_append]
  interval_cases k <;> simp

@[simp] theorem Format.shift_funct3 (arith : BitVec 1) (hi : BitVec 6) (shamt : BitVec 5) (rs1 : RegIx) (f3 : BitVec 3) (rd : RegIx) (op : BitVec 7) :
    Fields.funct3 (Format.shift arith hi shamt rs1 f3 rd op) = f3 := by
  refine BitVec.eq_of_getLsbD_eq fun k hk => ?_
  simp only [Fields.funct3, BitVec.getLsbD_extractLsb', Format.shift_bit, BitVec.getLsbD_append]
  interval_cases k <;> simp

@[simp] theorem Format.shift_rs1 (arith : BitVec 1) (hi : BitVec 6) (shamt : BitVec 5) (rs1 : RegIx) (f3 : BitVec 3) (rd : RegIx) (op : BitVec 7) :
    Fields.rs1 (Format.shift arith hi shamt rs1 f3 rd op) = rs1 := by
  refine BitVec.eq_of_getLsbD_eq fun k hk => ?_
  simp only [Fields.rs1, BitVec.getLsbD_extractLsb', Format.shift_bit, BitVec.getLsbD_append]
  interval_cases k <;> simp

@[simp] theorem Format.shift_rs2 (arith : BitVec 1) (hi : BitVec 6) (shamt : BitVec 5) (rs1 : RegIx) (f3 : BitVec 3) (rd : RegIx) (op : BitVec 7) :
    Fields.rs2 (Format.shift arith hi shamt rs1 f3 rd op) = shamt := by
  refine BitVec.eq_of_getLsbD_eq fun k hk => ?_
  simp only [Fields.rs2, BitVec.getLsbD_extractLsb', Format.shift_bit, BitVec.getLsbD_append]
  interval_cases k <;> simp

@[simp] theorem Format.shift_bit30 (arith : BitVec 1) (hi : BitVec 6) (shamt : BitVec 5) (rs1 : RegIx) (f3 : BitVec 3) (rd : RegIx) (op : BitVec 7) :
    Fields.bit30 (Format.shift arith hi shamt rs1 f3 rd op) = arith := by
  refine BitVec.eq_of_getLsbD_eq fun k hk => ?_
  simp only [Fields.bit30, BitVec.getLsbD_extractLsb', Format.shift_bit, BitVec.getLsbD_append]
  interval_cases k
  simp

@[simp] theorem Format.shift_shiftHi (arith : BitVec 1) (hi : BitVec 6) (shamt : BitVec 5) (rs1 : RegIx) (f3 : BitVec 3) (rd : RegIx) (op : BitVec 7) :
    Fields.shiftHi (Format.shift arith hi shamt rs1 f3 rd op) = hi := by
  rw [Fields.shiftHi]
  have key : ∀ k, (BitVec.getLsbD (w := 1 + 5)
      ((Format.shift arith hi shamt rs1 f3 rd op).extractLsb' 31 1 ++ (Format.shift arith hi shamt rs1 f3 rd op).extractLsb' 25 5) k) =
      if k < 5 then (Format.shift arith hi shamt rs1 f3 rd op).getLsbD (25 + k)
      else decide (k - 5 < 1) && (Format.shift arith hi shamt rs1 f3 rd op).getLsbD (31 + (k - 5)) := by
    intro k; rw [BitVec.getLsbD_append]; split <;> simp_all
  refine BitVec.eq_of_getLsbD_eq fun k hk => (key k).trans ?_
  simp only [Format.shift_bit, BitVec.getLsbD_append, BitVec.getLsbD_extractLsb']
  interval_cases k <;> simp

/-! ### Masks: what the opcode table compares (R122) -/

theorem Format.u_mask (imm : BitVec 20) (rd : RegIx) (op : BitVec 7) :
    Format.u imm rd op &&& 0x7F#32 = Format.u 0#20 0#5 op := by
  refine BitVec.eq_of_getLsbD_eq fun k hk => ?_
  rw [BitVec.getLsbD_and]
  simp only [Format.u_bit, BitVec.getLsbD_append]
  interval_cases k <;> simp

theorem Format.j_mask (off : BitVec 21) (rd : RegIx) (op : BitVec 7) :
    Format.j off rd op &&& 0x7F#32 = Format.u 0#20 0#5 op := by
  refine BitVec.eq_of_getLsbD_eq fun k hk => ?_
  rw [BitVec.getLsbD_and]
  simp only [Format.j_bit, Format.u_bit, BitVec.getLsbD_append, BitVec.getLsbD_extractLsb']
  interval_cases k <;> simp

theorem Format.i_mask (imm : BitVec 12) (rs1 : RegIx) (f3 : BitVec 3) (rd : RegIx) (op : BitVec 7) :
    Format.i imm rs1 f3 rd op &&& 0x707F#32 = Format.i 0#12 0#5 f3 0#5 op := by
  refine BitVec.eq_of_getLsbD_eq fun k hk => ?_
  rw [BitVec.getLsbD_and]
  simp only [Format.i_bit, BitVec.getLsbD_append]
  interval_cases k <;> simp

theorem Format.s_mask (imm : BitVec 12) (rs2 rs1 : RegIx) (f3 : BitVec 3) (op : BitVec 7) :
    Format.s imm rs2 rs1 f3 op &&& 0x707F#32 = Format.i 0#12 0#5 f3 0#5 op := by
  refine BitVec.eq_of_getLsbD_eq fun k hk => ?_
  rw [BitVec.getLsbD_and]
  simp only [Format.s_bit, Format.i_bit, BitVec.getLsbD_append, BitVec.getLsbD_extractLsb']
  interval_cases k <;> simp

theorem Format.b_mask (off : BitVec 13) (rs2 rs1 : RegIx) (f3 : BitVec 3) (op : BitVec 7) :
    Format.b off rs2 rs1 f3 op &&& 0x707F#32 = Format.i 0#12 0#5 f3 0#5 op := by
  refine BitVec.eq_of_getLsbD_eq fun k hk => ?_
  rw [BitVec.getLsbD_and]
  simp only [Format.b_bit, Format.i_bit, BitVec.getLsbD_append, BitVec.getLsbD_extractLsb']
  interval_cases k <;> simp

theorem Format.r_mask (f7 : BitVec 7) (rs2 rs1 : RegIx) (f3 : BitVec 3) (rd : RegIx) (op : BitVec 7) :
    Format.r f7 rs2 rs1 f3 rd op &&& 0xFE00707F#32 = Format.r f7 0#5 0#5 f3 0#5 op := by
  refine BitVec.eq_of_getLsbD_eq fun k hk => ?_
  rw [BitVec.getLsbD_and]
  simp only [Format.r_bit, BitVec.getLsbD_append]
  interval_cases k <;> simp

theorem Format.shift_mask (arith : BitVec 1) (hi : BitVec 6) (shamt : BitVec 5) (rs1 : RegIx) (f3 : BitVec 3) (rd : RegIx) (op : BitVec 7) :
    Format.shift arith hi shamt rs1 f3 rd op &&& 0x4000707F#32 = Format.shift arith 0#6 0#5 0#5 f3 0#5 op := by
  refine BitVec.eq_of_getLsbD_eq fun k hk => ?_
  rw [BitVec.getLsbD_and]
  simp only [Format.shift_bit, BitVec.getLsbD_append, BitVec.getLsbD_extractLsb']
  interval_cases k <;> simp

theorem Format.r_floatMask (f7 : BitVec 7) (rs2 rs1 : RegIx) (f3 : BitVec 3) (rd : RegIx) (op : BitVec 7) :
    Format.r f7 rs2 rs1 f3 rd op &&& 0xFE00007F#32 = Format.r f7 0#5 0#5 0#3 0#5 op := by
  refine BitVec.eq_of_getLsbD_eq fun k hk => ?_
  rw [BitVec.getLsbD_and]
  simp only [Format.r_bit, BitVec.getLsbD_append]
  interval_cases k <;> simp

theorem Format.r_shiftMask (f7 : BitVec 7) (rs2 rs1 : RegIx) (f3 : BitVec 3) (rd : RegIx) (op : BitVec 7) :
    Format.r f7 rs2 rs1 f3 rd op &&& 0x707F#32 = Format.i 0#12 0#5 f3 0#5 op := by
  refine BitVec.eq_of_getLsbD_eq fun k hk => ?_
  rw [BitVec.getLsbD_and]
  simp only [Format.r_bit, Format.i_bit, BitVec.getLsbD_append]
  interval_cases k <;> simp

theorem Format.r_float (code : BitVec 7) (f3 : BitVec 3) (rs2 rs1 rd : RegIx) :
    Format.r code rs2 rs1 f3 rd 0x33#7 &&& 0xFE00007F#32 = code ++ 0#18 ++ 0x33#7 := by
  rw [Format.r_floatMask]
  refine BitVec.eq_of_getLsbD_eq fun k hk => ?_
  refine Eq.trans ?_ (show (code ++ 0#18 ++ 0x33#7 : BitVec (7 + 18 + 7)).getLsbD k = _ from rfl)
  simp only [Format.r_bit, BitVec.getLsbD_append]
  interval_cases k <;> simp

end Sys2Proof
end

