-- ==== Sys2Proof/Laws/Memory.lean ====
section
/-! SUPPORT. Laws of memory: a read after a write, and the canonical form every operation keeps. -/

namespace Sys2Proof.Machine.Memory

/-! ### The canonical form -/

theorem wf_iff (m : Memory) :
    m.wf = true ↔ m.Pairwise (fun x y => x.1 < y.1) ∧ ∀ x ∈ m, x.2 ≠ unwrittenByte := by
  simp [wf]

theorem wf_nil : wf ([] : Memory) = true := rfl

/-- The memory of every VM after reset has the canonical form. -/
theorem reset_wf (v : VmId) : (State.reset.vms[v]).mem.wf = true := by simp [State.reset, VM.reset, wf_nil]

theorem wf_cons (k : Nat) (b : Byte) (m : Memory) :
    wf ((k, b) :: m) = true ↔ b ≠ unwrittenByte ∧ (∀ x ∈ m, k < x.1) ∧ wf m = true := by
  simp only [wf_iff, List.pairwise_cons, List.forall_mem_cons]; tauto

theorem wf_put {a : Nat} {b : Byte} {m : Memory} (h : m.wf = true) (ha : ∀ x ∈ m, a < x.1) : (put a b m).wf = true := by
  unfold put; split
  · exact h
  · next hb => exact (wf_cons a b m).2 ⟨hb, ha, h⟩

theorem mem_put {a : Nat} {b : Byte} {m : Memory} {x : Host.Cell} (hx : x ∈ put a b m) : x = (a, b) ∨ x ∈ m := by
  unfold put at hx; split at hx
  · exact .inr hx
  · simpa using hx

/-- Every entry of a written memory is the new one or an old one. -/
theorem mem_set {m : Memory} {a : Nat} {b : Byte} {x : Host.Cell} (hx : x ∈ m.set a b) : x = (a, b) ∨ x ∈ m := by
  induction m with
  | nil => exact mem_put hx
  | cons c rest ih =>
    obtain ⟨k, d⟩ := c
    simp only [set] at hx
    split at hx
    · rcases mem_put hx with h | h
      · exact .inl h
      · exact .inr (List.mem_cons_of_mem _ h)
    · split at hx
      · exact mem_put hx
      · rcases List.mem_cons.1 hx with h | h
        · exact .inr (h ▸ List.mem_cons_self)
        · rcases ih h with h | h
          · exact .inl h
          · exact .inr (List.mem_cons_of_mem _ h)

/-- A write keeps the canonical form. -/
theorem wf_set {m : Memory} (h : m.wf = true) (a : Nat) (b : Byte) : (m.set a b).wf = true := by
  induction m with
  | nil => exact wf_put wf_nil (by simp)
  | cons c rest ih =>
    obtain ⟨k, d⟩ := c
    have hc := (wf_cons k d rest).1 h
    simp only [set]
    split
    · next hk => exact wf_put hc.2.2 (hk ▸ hc.2.1)
    · split
      · next hlt =>
        refine wf_put h fun x hx => ?_
        rcases List.mem_cons.1 hx with rfl | hx
        · exact hlt
        · exact Nat.lt_trans hlt (hc.2.1 x hx)
      · next hne hnl =>
        refine (wf_cons k d _).2 ⟨hc.1, fun x hx => ?_, ih hc.2.2⟩
        rcases mem_set hx with rfl | hx
        · exact Nat.lt_of_le_of_ne (Nat.le_of_not_lt hnl) (Ne.symm hne)
        · exact hc.2.1 x hx

theorem wf_store {m : Memory} (h : m.wf = true) (a : Nat) (n : Size) (v : Word) : (m.store a n v).wf = true := by
  cases n <;> simp only [store] <;> repeat (first | exact h | apply wf_set)

theorem wf_setBytes {m : Memory} (h : m.wf = true) (a : Nat) (bytes : List Byte) : (m.setBytes a bytes).wf = true := by
  induction bytes generalizing m a with
  | nil => exact h
  | cons b rest ih => exact ih (wf_set h a b) (a + 1)

/-! ### Addresses stay below the size of memory -/

theorem below_iff (m : Memory) (size : Nat) : m.below size = true ↔ ∀ x ∈ m, x.1 < size := by simp [below]

theorem below_nil (size : Nat) : below ([] : Memory) size = true := rfl

theorem below_set {m : Memory} {size a : Nat} (h : m.below size = true) (ha : a < size) (b : Byte) :
    (m.set a b).below size = true := by
  rw [below_iff] at *
  intro x hx
  rcases mem_set hx with rfl | hx
  · exact ha
  · exact h x hx

theorem below_store {m : Memory} {size a : Nat} {n : Size} (h : m.below size = true) (ha : a + n.bytes ≤ size) (v : Word) :
    (m.store a n v).below size = true := by
  cases n <;> simp only [store, Size.bytes] at * <;> repeat (first | exact h | omega | apply below_set)

theorem below_setBytes {m : Memory} {size a : Nat} (h : m.below size = true) (bytes : List Byte)
    (ha : a + bytes.length ≤ size) : (m.setBytes a bytes).below size = true := by
  induction bytes generalizing m a with
  | nil => exact h
  | cons b rest ih =>
    simp only [List.length_cons] at ha
    exact ih (below_set h (by omega) b) (by omega)

/-! ### A read after a write -/

theorem get_of_lt {m : Memory} {a : Nat} (h : ∀ x ∈ m, a < x.1) : m.get a = unwrittenByte := by
  cases m with
  | nil => rfl
  | cons c rest =>
    have := h c List.mem_cons_self
    simp [get, this, Nat.ne_of_lt this]

theorem get_put {a : Nat} {b : Byte} {m : Memory} (ha : ∀ x ∈ m, a < x.1) (a' : Nat) :
    (put a b m).get a' = if a' = a then b else m.get a' := by
  unfold put; split
  · next hb =>
    split
    · next h => rw [h, get_of_lt ha, hb]
    · rfl
  · simp only [get]; split
    · rfl
    · split
      · next h1 h2 => exact (get_of_lt fun x hx => Nat.lt_trans h2 (ha x hx)).symm
      · rfl

/-- A read after a write of one byte. -/
theorem get_set {m : Memory} (h : m.wf = true) (a : Nat) (b : Byte) (a' : Nat) :
    (m.set a b).get a' = if a' = a then b else m.get a' := by
  induction m with
  | nil => exact get_put (by simp) a'
  | cons c rest ih =>
    obtain ⟨k, d⟩ := c
    have hc := (wf_cons k d rest).1 h
    simp only [set]
    split
    · next hk =>
      subst hk
      rw [get_put hc.2.1]
      by_cases h1 : a' = a
      · simp [h1]
      · simp only [get, h1, if_false]
        split
        · next h2 => exact get_of_lt fun x hx => Nat.lt_trans h2 (hc.2.1 x hx)
        · rfl
    · split
      · next hlt =>
        rw [get_put]
        intro x hx
        rcases List.mem_cons.1 hx with rfl | hx
        · exact hlt
        · exact Nat.lt_trans hlt (hc.2.1 x hx)
      · next hne hnl =>
        simp only [get, ih hc.2.2]
        by_cases h1 : a' = k
        · have h2 : a' ≠ a := fun e => hne (e ▸ h1)
          simp [h1, h1 ▸ h2]
        · by_cases h2 : a' < k
          · have h3 : a' ≠ a := by omega
            simp [h1, h2, h3]
          · simp [h1, h2]

theorem get_set_self {m : Memory} (h : m.wf = true) (a : Nat) (b : Byte) : (m.set a b).get a = b := by
  simp [get_set h]

theorem get_set_of_ne {m : Memory} (h : m.wf = true) {a a' : Nat} (hne : a' ≠ a) (b : Byte) :
    (m.set a b).get a' = m.get a' := by simp [get_set h, hne]

/-- A store leaves every byte outside it. -/
theorem get_store_of_outside {m : Memory} (h : m.wf = true) {a a' : Nat} {n : Size} (v : Word)
    (ho : a' < a ∨ a + n.bytes ≤ a') : (m.store a n v).get a' = m.get a' := by
  cases n <;> simp only [store, Size.bytes] at * <;>
    repeat (first | rfl | rw [get_set_of_ne (by repeat (first | exact h | apply wf_set)) (by omega)])

/-- Byte `i` of a store is byte `i` of the value (R64). -/
theorem get_store_inside {m : Memory} (h : m.wf = true) (a : Nat) {n : Size} (v : Word) {i : Nat} (hi : i < n.bytes) :
    (m.store a n v).get (a + i) = byteOf v i := by
  have h1 := wf_set h a (byteOf v 0)
  have h2 := wf_set h1 (a + 1) (byteOf v 1)
  have h3 := wf_set h2 (a + 2) (byteOf v 2)
  cases n <;> simp only [store, Size.bytes] at *
  · obtain rfl : i = 0 := by omega
    simp [get_set h]
  · obtain rfl | rfl : i = 0 ∨ i = 1 := by omega
    · simp [get_set h, get_set h1]
    · simp [get_set h1]
  · obtain rfl | rfl | rfl | rfl : i = 0 ∨ i = 1 ∨ i = 2 ∨ i = 3 := by omega
    · simp [get_set h, get_set h1, get_set h2, get_set h3]
    · simp [get_set h1, get_set h2, get_set h3]
    · simp [get_set h2, get_set h3]
    · simp [get_set h3]

/-- Equal bytes everywhere make equal canonical memories. -/
theorem ext_get {m m' : Memory} (h : m.wf = true) (h' : m'.wf = true) (hg : ∀ a, m.get a = m'.get a) : m = m' := by
  induction m generalizing m' with
  | nil =>
    cases m' with
    | nil => rfl
    | cons c rest =>
      obtain ⟨k, d⟩ := c
      exact absurd (by simpa [get] using (hg k).symm) ((wf_cons k d rest).1 h').1
  | cons c rest ih =>
    obtain ⟨k, d⟩ := c
    have hc := (wf_cons k d rest).1 h
    cases m' with
    | nil => exact absurd (by simpa [get] using hg k) hc.1
    | cons c' rest' =>
      obtain ⟨k', d'⟩ := c'
      have hc' := (wf_cons k' d' rest').1 h'
      have hk : k = k' := by
        rcases Nat.lt_trichotomy k k' with hlt | he | hlt
        · have := hg k
          simp only [get, if_true, Nat.ne_of_lt hlt, if_false, hlt] at this
          exact absurd this hc.1
        · exact he
        · have := hg k'
          simp only [get, if_true, Nat.ne_of_lt hlt, if_false, hlt] at this
          exact absurd this.symm hc'.1
      subst hk
      have hd : d = d' := by simpa [get] using hg k
      subst hd
      congr 1
      refine ih hc.2.2 hc'.2.2 fun a => ?_
      rcases Nat.lt_or_ge k a with hlt | hge
      · have := hg a
        simpa [get, Nat.ne_of_gt hlt, Nat.not_lt.2 (Nat.le_of_lt hlt)] using this
      · rw [get_of_lt fun x hx => Nat.lt_of_le_of_lt hge (hc.2.1 x hx),
          get_of_lt fun x hx => Nat.lt_of_le_of_lt hge (hc'.2.1 x hx)]

/-- A load reads only its own bytes. -/
theorem load_congr {m m' : Memory} {a : Nat} {n : Size} (h : ∀ i < n.bytes, m.get (a + i) = m'.get (a + i)) :
    m.load a n = m'.load a n := by
  cases n <;> simp only [load, Size.bytes] at *
  · rw [show m.get a = m'.get a from h 0 (by omega)]
  · rw [show m.get a = m'.get a from h 0 (by omega), h 1 (by omega)]
  · rw [show m.get a = m'.get a from h 0 (by omega), h 1 (by omega), h 2 (by omega), h 3 (by omega)]

end Sys2Proof.Machine.Memory
end

