-- ==== Sys2Proof/Laws/State.lean ====
section
/-! SUPPORT. One lemma per field per update of the state, so that no later proof unfolds a record update. -/

namespace Sys2Proof.Machine

/-! ### VM.setUnit -/

@[simp] theorem VM.setUnit_mem (vm : VM) (u : Nat) (x : ExecUnit) : (vm.setUnit u x).mem = vm.mem := rfl
@[simp] theorem VM.setUnit_cpu (vm : VM) (u : Nat) (x : ExecUnit) : (vm.setUnit u x).cpu = vm.cpu := rfl
@[simp] theorem VM.setUnit_vmStatus (vm : VM) (u : Nat) (x : ExecUnit) : (vm.setUnit u x).vmStatus = vm.vmStatus := rfl
@[simp] theorem VM.setUnit_ring (vm : VM) (u : Nat) (x : ExecUnit) : (vm.setUnit u x).ring = vm.ring := rfl
@[simp] theorem VM.setUnit_ringCtr (vm : VM) (u : Nat) (x : ExecUnit) : (vm.setUnit u x).ringCtr = vm.ringCtr := rfl
@[simp] theorem VM.setUnit_console (vm : VM) (u : Nat) (x : ExecUnit) : (vm.setUnit u x).console = vm.console := rfl
@[simp] theorem VM.setUnit_consoleLen (vm : VM) (u : Nat) (x : ExecUnit) : (vm.setUnit u x).consoleLen = vm.consoleLen := rfl
@[simp] theorem VM.setUnit_prof (vm : VM) (u : Nat) (x : ExecUnit) : (vm.setUnit u x).prof = vm.prof := rfl
@[simp] theorem VM.setUnit_pixels (vm : VM) (u : Nat) (x : ExecUnit) : (vm.setUnit u x).pixels = vm.pixels := rfl
@[simp] theorem VM.setUnit_lock (vm : VM) (u : Nat) (x : ExecUnit) : (vm.setUnit u x).tick.lock = vm.tick.lock := rfl
@[simp] theorem VM.setUnit_haltFlag (vm : VM) (u : Nat) (x : ExecUnit) : (vm.setUnit u x).tick.haltFlag = vm.tick.haltFlag := rfl
@[simp] theorem VM.setUnit_abortFlag (vm : VM) (u : Nat) (x : ExecUnit) : (vm.setUnit u x).tick.abortFlag = vm.tick.abortFlag := rfl
@[simp] theorem VM.setUnit_executed (vm : VM) (u : Nat) (x : ExecUnit) : (vm.setUnit u x).tick.executed = vm.tick.executed := rfl
@[simp] theorem VM.setUnit_budget (vm : VM) (u : Nat) (x : ExecUnit) : (vm.setUnit u x).tick.budget = vm.tick.budget := rfl
@[simp] theorem VM.setUnit_resumePc (vm : VM) (u : Nat) (x : ExecUnit) : (vm.setUnit u x).tick.resumePc = vm.tick.resumePc := rfl
@[simp] theorem VM.setUnit_turn (vm : VM) (u : Nat) (x : ExecUnit) : (vm.setUnit u x).tick.turn = vm.tick.turn := rfl

/-! ### VM.goto -/

@[simp] theorem VM.goto_mem (vm : VM) (u : Nat) (p : Phase) : (vm.goto u p).mem = vm.mem := rfl
@[simp] theorem VM.goto_cpu (vm : VM) (u : Nat) (p : Phase) : (vm.goto u p).cpu = vm.cpu := rfl
@[simp] theorem VM.goto_vmStatus (vm : VM) (u : Nat) (p : Phase) : (vm.goto u p).vmStatus = vm.vmStatus := rfl
@[simp] theorem VM.goto_ring (vm : VM) (u : Nat) (p : Phase) : (vm.goto u p).ring = vm.ring := rfl
@[simp] theorem VM.goto_ringCtr (vm : VM) (u : Nat) (p : Phase) : (vm.goto u p).ringCtr = vm.ringCtr := rfl
@[simp] theorem VM.goto_console (vm : VM) (u : Nat) (p : Phase) : (vm.goto u p).console = vm.console := rfl
@[simp] theorem VM.goto_consoleLen (vm : VM) (u : Nat) (p : Phase) : (vm.goto u p).consoleLen = vm.consoleLen := rfl
@[simp] theorem VM.goto_prof (vm : VM) (u : Nat) (p : Phase) : (vm.goto u p).prof = vm.prof := rfl
@[simp] theorem VM.goto_pixels (vm : VM) (u : Nat) (p : Phase) : (vm.goto u p).pixels = vm.pixels := rfl
@[simp] theorem VM.goto_lock (vm : VM) (u : Nat) (p : Phase) : (vm.goto u p).tick.lock = vm.tick.lock := rfl
@[simp] theorem VM.goto_haltFlag (vm : VM) (u : Nat) (p : Phase) : (vm.goto u p).tick.haltFlag = vm.tick.haltFlag := rfl
@[simp] theorem VM.goto_abortFlag (vm : VM) (u : Nat) (p : Phase) : (vm.goto u p).tick.abortFlag = vm.tick.abortFlag := rfl
@[simp] theorem VM.goto_executed (vm : VM) (u : Nat) (p : Phase) : (vm.goto u p).tick.executed = vm.tick.executed := rfl
@[simp] theorem VM.goto_budget (vm : VM) (u : Nat) (p : Phase) : (vm.goto u p).tick.budget = vm.tick.budget := rfl
@[simp] theorem VM.goto_resumePc (vm : VM) (u : Nat) (p : Phase) : (vm.goto u p).tick.resumePc = vm.tick.resumePc := rfl
@[simp] theorem VM.goto_turn (vm : VM) (u : Nat) (p : Phase) : (vm.goto u p).tick.turn = vm.tick.turn := rfl

/-! ### VM.setReg -/

@[simp] theorem VM.setReg_cpu (vm : VM) (r : RegIx) (v : Word) : (vm.setReg r v).cpu = vm.cpu := by
  unfold VM.setReg; split <;> rfl
@[simp] theorem VM.setReg_vmStatus (vm : VM) (r : RegIx) (v : Word) : (vm.setReg r v).vmStatus = vm.vmStatus := by
  unfold VM.setReg; split <;> rfl
@[simp] theorem VM.setReg_ring (vm : VM) (r : RegIx) (v : Word) : (vm.setReg r v).ring = vm.ring := by
  unfold VM.setReg; split <;> rfl
@[simp] theorem VM.setReg_ringCtr (vm : VM) (r : RegIx) (v : Word) : (vm.setReg r v).ringCtr = vm.ringCtr := by
  unfold VM.setReg; split <;> rfl
@[simp] theorem VM.setReg_console (vm : VM) (r : RegIx) (v : Word) : (vm.setReg r v).console = vm.console := by
  unfold VM.setReg; split <;> rfl
@[simp] theorem VM.setReg_consoleLen (vm : VM) (r : RegIx) (v : Word) : (vm.setReg r v).consoleLen = vm.consoleLen := by
  unfold VM.setReg; split <;> rfl
@[simp] theorem VM.setReg_prof (vm : VM) (r : RegIx) (v : Word) : (vm.setReg r v).prof = vm.prof := by
  unfold VM.setReg; split <;> rfl
@[simp] theorem VM.setReg_pixels (vm : VM) (r : RegIx) (v : Word) : (vm.setReg r v).pixels = vm.pixels := by
  unfold VM.setReg; split <;> rfl
@[simp] theorem VM.setReg_tick (vm : VM) (r : RegIx) (v : Word) : (vm.setReg r v).tick = vm.tick := by
  unfold VM.setReg; split <;> rfl

/-! ### VM.setPc -/

@[simp] theorem VM.setPc_mem (vm : VM) (pc : Word) : (vm.setPc pc).mem = vm.mem := rfl
@[simp] theorem VM.setPc_vmStatus (vm : VM) (pc : Word) : (vm.setPc pc).vmStatus = vm.vmStatus := rfl
@[simp] theorem VM.setPc_ring (vm : VM) (pc : Word) : (vm.setPc pc).ring = vm.ring := rfl
@[simp] theorem VM.setPc_ringCtr (vm : VM) (pc : Word) : (vm.setPc pc).ringCtr = vm.ringCtr := rfl
@[simp] theorem VM.setPc_console (vm : VM) (pc : Word) : (vm.setPc pc).console = vm.console := rfl
@[simp] theorem VM.setPc_consoleLen (vm : VM) (pc : Word) : (vm.setPc pc).consoleLen = vm.consoleLen := rfl
@[simp] theorem VM.setPc_prof (vm : VM) (pc : Word) : (vm.setPc pc).prof = vm.prof := rfl
@[simp] theorem VM.setPc_pixels (vm : VM) (pc : Word) : (vm.setPc pc).pixels = vm.pixels := rfl
@[simp] theorem VM.setPc_tick (vm : VM) (pc : Word) : (vm.setPc pc).tick = vm.tick := rfl

/-! ### VM.storeMem -/

@[simp] theorem VM.storeMem_cpu (vm : VM) (a : Nat) (n : Size) (v : Word) : (vm.storeMem a n v).cpu = vm.cpu := rfl
@[simp] theorem VM.storeMem_vmStatus (vm : VM) (a : Nat) (n : Size) (v : Word) : (vm.storeMem a n v).vmStatus = vm.vmStatus := rfl
@[simp] theorem VM.storeMem_ring (vm : VM) (a : Nat) (n : Size) (v : Word) : (vm.storeMem a n v).ring = vm.ring := rfl
@[simp] theorem VM.storeMem_ringCtr (vm : VM) (a : Nat) (n : Size) (v : Word) : (vm.storeMem a n v).ringCtr = vm.ringCtr := rfl
@[simp] theorem VM.storeMem_console (vm : VM) (a : Nat) (n : Size) (v : Word) : (vm.storeMem a n v).console = vm.console := rfl
@[simp] theorem VM.storeMem_consoleLen (vm : VM) (a : Nat) (n : Size) (v : Word) : (vm.storeMem a n v).consoleLen = vm.consoleLen := rfl
@[simp] theorem VM.storeMem_prof (vm : VM) (a : Nat) (n : Size) (v : Word) : (vm.storeMem a n v).prof = vm.prof := rfl
@[simp] theorem VM.storeMem_pixels (vm : VM) (a : Nat) (n : Size) (v : Word) : (vm.storeMem a n v).pixels = vm.pixels := rfl
@[simp] theorem VM.storeMem_tick (vm : VM) (a : Nat) (n : Size) (v : Word) : (vm.storeMem a n v).tick = vm.tick := rfl

/-! ### VM.storeRing -/

@[simp] theorem VM.storeRing_mem (vm : VM) (k : Fin 16) (f : SyscallField) (v : Word) : (vm.storeRing k f v).mem = vm.mem := rfl
@[simp] theorem VM.storeRing_cpu (vm : VM) (k : Fin 16) (f : SyscallField) (v : Word) : (vm.storeRing k f v).cpu = vm.cpu := rfl
@[simp] theorem VM.storeRing_vmStatus (vm : VM) (k : Fin 16) (f : SyscallField) (v : Word) : (vm.storeRing k f v).vmStatus = vm.vmStatus := rfl
@[simp] theorem VM.storeRing_ringCtr (vm : VM) (k : Fin 16) (f : SyscallField) (v : Word) : (vm.storeRing k f v).ringCtr = vm.ringCtr := rfl
@[simp] theorem VM.storeRing_console (vm : VM) (k : Fin 16) (f : SyscallField) (v : Word) : (vm.storeRing k f v).console = vm.console := rfl
@[simp] theorem VM.storeRing_consoleLen (vm : VM) (k : Fin 16) (f : SyscallField) (v : Word) : (vm.storeRing k f v).consoleLen = vm.consoleLen := rfl
@[simp] theorem VM.storeRing_prof (vm : VM) (k : Fin 16) (f : SyscallField) (v : Word) : (vm.storeRing k f v).prof = vm.prof := rfl
@[simp] theorem VM.storeRing_pixels (vm : VM) (k : Fin 16) (f : SyscallField) (v : Word) : (vm.storeRing k f v).pixels = vm.pixels := rfl
@[simp] theorem VM.storeRing_tick (vm : VM) (k : Fin 16) (f : SyscallField) (v : Word) : (vm.storeRing k f v).tick = vm.tick := rfl

/-- A write of one word of a slot changes that slot only. -/
@[simp] theorem VM.storeRing_ring (vm : VM) (k : Fin 16) (f : SyscallField) (v : Word) :
    (vm.storeRing k f v).ring = vm.ring.set k (vm.ring[k].setField f v) := rfl

/-! ### VM.issuePixel -/

@[simp] theorem VM.issuePixel_mem (vm : VM) (p : PixelStore) : (vm.issuePixel p).mem = vm.mem := rfl
@[simp] theorem VM.issuePixel_cpu (vm : VM) (p : PixelStore) : (vm.issuePixel p).cpu = vm.cpu := rfl
@[simp] theorem VM.issuePixel_vmStatus (vm : VM) (p : PixelStore) : (vm.issuePixel p).vmStatus = vm.vmStatus := rfl
@[simp] theorem VM.issuePixel_ring (vm : VM) (p : PixelStore) : (vm.issuePixel p).ring = vm.ring := rfl
@[simp] theorem VM.issuePixel_ringCtr (vm : VM) (p : PixelStore) : (vm.issuePixel p).ringCtr = vm.ringCtr := rfl
@[simp] theorem VM.issuePixel_console (vm : VM) (p : PixelStore) : (vm.issuePixel p).console = vm.console := rfl
@[simp] theorem VM.issuePixel_consoleLen (vm : VM) (p : PixelStore) : (vm.issuePixel p).consoleLen = vm.consoleLen := rfl
@[simp] theorem VM.issuePixel_prof (vm : VM) (p : PixelStore) : (vm.issuePixel p).prof = vm.prof := rfl
@[simp] theorem VM.issuePixel_tick (vm : VM) (p : PixelStore) : (vm.issuePixel p).tick = vm.tick := rfl

/-! ### VM.setLock -/

@[simp] theorem VM.setLock_mem (vm : VM) (b : Bool) : (vm.setLock b).mem = vm.mem := rfl
@[simp] theorem VM.setLock_cpu (vm : VM) (b : Bool) : (vm.setLock b).cpu = vm.cpu := rfl
@[simp] theorem VM.setLock_vmStatus (vm : VM) (b : Bool) : (vm.setLock b).vmStatus = vm.vmStatus := rfl
@[simp] theorem VM.setLock_ring (vm : VM) (b : Bool) : (vm.setLock b).ring = vm.ring := rfl
@[simp] theorem VM.setLock_ringCtr (vm : VM) (b : Bool) : (vm.setLock b).ringCtr = vm.ringCtr := rfl
@[simp] theorem VM.setLock_console (vm : VM) (b : Bool) : (vm.setLock b).console = vm.console := rfl
@[simp] theorem VM.setLock_consoleLen (vm : VM) (b : Bool) : (vm.setLock b).consoleLen = vm.consoleLen := rfl
@[simp] theorem VM.setLock_prof (vm : VM) (b : Bool) : (vm.setLock b).prof = vm.prof := rfl
@[simp] theorem VM.setLock_pixels (vm : VM) (b : Bool) : (vm.setLock b).pixels = vm.pixels := rfl
@[simp] theorem VM.setLock_haltFlag (vm : VM) (b : Bool) : (vm.setLock b).tick.haltFlag = vm.tick.haltFlag := rfl
@[simp] theorem VM.setLock_abortFlag (vm : VM) (b : Bool) : (vm.setLock b).tick.abortFlag = vm.tick.abortFlag := rfl
@[simp] theorem VM.setLock_executed (vm : VM) (b : Bool) : (vm.setLock b).tick.executed = vm.tick.executed := rfl
@[simp] theorem VM.setLock_budget (vm : VM) (b : Bool) : (vm.setLock b).tick.budget = vm.tick.budget := rfl
@[simp] theorem VM.setLock_resumePc (vm : VM) (b : Bool) : (vm.setLock b).tick.resumePc = vm.tick.resumePc := rfl
@[simp] theorem VM.setLock_units (vm : VM) (b : Bool) : (vm.setLock b).tick.units = vm.tick.units := rfl
@[simp] theorem VM.setLock_turn (vm : VM) (b : Bool) : (vm.setLock b).tick.turn = vm.tick.turn := rfl

/-! ### VM.raiseHalt -/

@[simp] theorem VM.raiseHalt_mem (vm : VM) : (vm.raiseHalt).mem = vm.mem := rfl
@[simp] theorem VM.raiseHalt_cpu (vm : VM) : (vm.raiseHalt).cpu = vm.cpu := rfl
@[simp] theorem VM.raiseHalt_vmStatus (vm : VM) : (vm.raiseHalt).vmStatus = vm.vmStatus := rfl
@[simp] theorem VM.raiseHalt_ring (vm : VM) : (vm.raiseHalt).ring = vm.ring := rfl
@[simp] theorem VM.raiseHalt_ringCtr (vm : VM) : (vm.raiseHalt).ringCtr = vm.ringCtr := rfl
@[simp] theorem VM.raiseHalt_console (vm : VM) : (vm.raiseHalt).console = vm.console := rfl
@[simp] theorem VM.raiseHalt_consoleLen (vm : VM) : (vm.raiseHalt).consoleLen = vm.consoleLen := rfl
@[simp] theorem VM.raiseHalt_prof (vm : VM) : (vm.raiseHalt).prof = vm.prof := rfl
@[simp] theorem VM.raiseHalt_pixels (vm : VM) : (vm.raiseHalt).pixels = vm.pixels := rfl
@[simp] theorem VM.raiseHalt_lock (vm : VM) : (vm.raiseHalt).tick.lock = vm.tick.lock := rfl
@[simp] theorem VM.raiseHalt_abortFlag (vm : VM) : (vm.raiseHalt).tick.abortFlag = vm.tick.abortFlag := rfl
@[simp] theorem VM.raiseHalt_executed (vm : VM) : (vm.raiseHalt).tick.executed = vm.tick.executed := rfl
@[simp] theorem VM.raiseHalt_budget (vm : VM) : (vm.raiseHalt).tick.budget = vm.tick.budget := rfl
@[simp] theorem VM.raiseHalt_resumePc (vm : VM) : (vm.raiseHalt).tick.resumePc = vm.tick.resumePc := rfl
@[simp] theorem VM.raiseHalt_units (vm : VM) : (vm.raiseHalt).tick.units = vm.tick.units := rfl
@[simp] theorem VM.raiseHalt_turn (vm : VM) : (vm.raiseHalt).tick.turn = vm.tick.turn := rfl

/-! ### VM.countOne -/

@[simp] theorem VM.countOne_mem (vm : VM) : (vm.countOne).mem = vm.mem := rfl
@[simp] theorem VM.countOne_cpu (vm : VM) : (vm.countOne).cpu = vm.cpu := rfl
@[simp] theorem VM.countOne_vmStatus (vm : VM) : (vm.countOne).vmStatus = vm.vmStatus := rfl
@[simp] theorem VM.countOne_ring (vm : VM) : (vm.countOne).ring = vm.ring := rfl
@[simp] theorem VM.countOne_ringCtr (vm : VM) : (vm.countOne).ringCtr = vm.ringCtr := rfl
@[simp] theorem VM.countOne_console (vm : VM) : (vm.countOne).console = vm.console := rfl
@[simp] theorem VM.countOne_consoleLen (vm : VM) : (vm.countOne).consoleLen = vm.consoleLen := rfl
@[simp] theorem VM.countOne_prof (vm : VM) : (vm.countOne).prof = vm.prof := rfl
@[simp] theorem VM.countOne_pixels (vm : VM) : (vm.countOne).pixels = vm.pixels := rfl
@[simp] theorem VM.countOne_lock (vm : VM) : (vm.countOne).tick.lock = vm.tick.lock := rfl
@[simp] theorem VM.countOne_haltFlag (vm : VM) : (vm.countOne).tick.haltFlag = vm.tick.haltFlag := rfl
@[simp] theorem VM.countOne_abortFlag (vm : VM) : (vm.countOne).tick.abortFlag = vm.tick.abortFlag := rfl
@[simp] theorem VM.countOne_budget (vm : VM) : (vm.countOne).tick.budget = vm.tick.budget := rfl
@[simp] theorem VM.countOne_resumePc (vm : VM) : (vm.countOne).tick.resumePc = vm.tick.resumePc := rfl
@[simp] theorem VM.countOne_units (vm : VM) : (vm.countOne).tick.units = vm.tick.units := rfl
@[simp] theorem VM.countOne_turn (vm : VM) : (vm.countOne).tick.turn = vm.tick.turn := rfl

/-! ### VM.setTurn -/

@[simp] theorem VM.setTurn_mem (vm : VM) (t : Nat) : (vm.setTurn t).mem = vm.mem := rfl
@[simp] theorem VM.setTurn_cpu (vm : VM) (t : Nat) : (vm.setTurn t).cpu = vm.cpu := rfl
@[simp] theorem VM.setTurn_vmStatus (vm : VM) (t : Nat) : (vm.setTurn t).vmStatus = vm.vmStatus := rfl
@[simp] theorem VM.setTurn_ring (vm : VM) (t : Nat) : (vm.setTurn t).ring = vm.ring := rfl
@[simp] theorem VM.setTurn_ringCtr (vm : VM) (t : Nat) : (vm.setTurn t).ringCtr = vm.ringCtr := rfl
@[simp] theorem VM.setTurn_console (vm : VM) (t : Nat) : (vm.setTurn t).console = vm.console := rfl
@[simp] theorem VM.setTurn_consoleLen (vm : VM) (t : Nat) : (vm.setTurn t).consoleLen = vm.consoleLen := rfl
@[simp] theorem VM.setTurn_prof (vm : VM) (t : Nat) : (vm.setTurn t).prof = vm.prof := rfl
@[simp] theorem VM.setTurn_pixels (vm : VM) (t : Nat) : (vm.setTurn t).pixels = vm.pixels := rfl
@[simp] theorem VM.setTurn_lock (vm : VM) (t : Nat) : (vm.setTurn t).tick.lock = vm.tick.lock := rfl
@[simp] theorem VM.setTurn_haltFlag (vm : VM) (t : Nat) : (vm.setTurn t).tick.haltFlag = vm.tick.haltFlag := rfl
@[simp] theorem VM.setTurn_abortFlag (vm : VM) (t : Nat) : (vm.setTurn t).tick.abortFlag = vm.tick.abortFlag := rfl
@[simp] theorem VM.setTurn_executed (vm : VM) (t : Nat) : (vm.setTurn t).tick.executed = vm.tick.executed := rfl
@[simp] theorem VM.setTurn_budget (vm : VM) (t : Nat) : (vm.setTurn t).tick.budget = vm.tick.budget := rfl
@[simp] theorem VM.setTurn_resumePc (vm : VM) (t : Nat) : (vm.setTurn t).tick.resumePc = vm.tick.resumePc := rfl
@[simp] theorem VM.setTurn_units (vm : VM) (t : Nat) : (vm.setTurn t).tick.units = vm.tick.units := rfl

/-! ### VM.profRecord -/

@[simp] theorem VM.profRecord_mem (vm : VM) (a : Word) : (vm.profRecord a).mem = vm.mem := rfl
@[simp] theorem VM.profRecord_cpu (vm : VM) (a : Word) : (vm.profRecord a).cpu = vm.cpu := rfl
@[simp] theorem VM.profRecord_vmStatus (vm : VM) (a : Word) : (vm.profRecord a).vmStatus = vm.vmStatus := rfl
@[simp] theorem VM.profRecord_ring (vm : VM) (a : Word) : (vm.profRecord a).ring = vm.ring := rfl
@[simp] theorem VM.profRecord_ringCtr (vm : VM) (a : Word) : (vm.profRecord a).ringCtr = vm.ringCtr := rfl
@[simp] theorem VM.profRecord_console (vm : VM) (a : Word) : (vm.profRecord a).console = vm.console := rfl
@[simp] theorem VM.profRecord_consoleLen (vm : VM) (a : Word) : (vm.profRecord a).consoleLen = vm.consoleLen := rfl
@[simp] theorem VM.profRecord_pixels (vm : VM) (a : Word) : (vm.profRecord a).pixels = vm.pixels := rfl
@[simp] theorem VM.profRecord_tick (vm : VM) (a : Word) : (vm.profRecord a).tick = vm.tick := rfl

/-! ### VM.resetProf -/

@[simp] theorem VM.resetProf_mem (vm : VM) : (vm.resetProf).mem = vm.mem := rfl
@[simp] theorem VM.resetProf_cpu (vm : VM) : (vm.resetProf).cpu = vm.cpu := rfl
@[simp] theorem VM.resetProf_vmStatus (vm : VM) : (vm.resetProf).vmStatus = vm.vmStatus := rfl
@[simp] theorem VM.resetProf_ring (vm : VM) : (vm.resetProf).ring = vm.ring := rfl
@[simp] theorem VM.resetProf_ringCtr (vm : VM) : (vm.resetProf).ringCtr = vm.ringCtr := rfl
@[simp] theorem VM.resetProf_console (vm : VM) : (vm.resetProf).console = vm.console := rfl
@[simp] theorem VM.resetProf_consoleLen (vm : VM) : (vm.resetProf).consoleLen = vm.consoleLen := rfl
@[simp] theorem VM.resetProf_pixels (vm : VM) : (vm.resetProf).pixels = vm.pixels := rfl
@[simp] theorem VM.resetProf_tick (vm : VM) : (vm.resetProf).tick = vm.tick := rfl

/-! ### VM.claim -/

@[simp] theorem VM.claim_mem (vm : VM) (u : Nat) : (vm.claim u).mem = vm.mem := rfl
@[simp] theorem VM.claim_vmStatus (vm : VM) (u : Nat) : (vm.claim u).vmStatus = vm.vmStatus := rfl
@[simp] theorem VM.claim_ring (vm : VM) (u : Nat) : (vm.claim u).ring = vm.ring := rfl
@[simp] theorem VM.claim_ringCtr (vm : VM) (u : Nat) : (vm.claim u).ringCtr = vm.ringCtr := rfl
@[simp] theorem VM.claim_console (vm : VM) (u : Nat) : (vm.claim u).console = vm.console := rfl
@[simp] theorem VM.claim_consoleLen (vm : VM) (u : Nat) : (vm.claim u).consoleLen = vm.consoleLen := rfl
@[simp] theorem VM.claim_prof (vm : VM) (u : Nat) : (vm.claim u).prof = vm.prof := rfl
@[simp] theorem VM.claim_pixels (vm : VM) (u : Nat) : (vm.claim u).pixels = vm.pixels := rfl
@[simp] theorem VM.claim_haltFlag (vm : VM) (u : Nat) : (vm.claim u).tick.haltFlag = vm.tick.haltFlag := rfl
@[simp] theorem VM.claim_abortFlag (vm : VM) (u : Nat) : (vm.claim u).tick.abortFlag = vm.tick.abortFlag := rfl
@[simp] theorem VM.claim_executed (vm : VM) (u : Nat) : (vm.claim u).tick.executed = vm.tick.executed := rfl
@[simp] theorem VM.claim_budget (vm : VM) (u : Nat) : (vm.claim u).tick.budget = vm.tick.budget := rfl
@[simp] theorem VM.claim_resumePc (vm : VM) (u : Nat) : (vm.claim u).tick.resumePc = vm.tick.resumePc := rfl
@[simp] theorem VM.claim_turn (vm : VM) (u : Nat) : (vm.claim u).tick.turn = vm.tick.turn := rfl

/-! ### VM.endTick -/

@[simp] theorem VM.endTick_mem (vm : VM) : (vm.endTick).mem = vm.mem := rfl
@[simp] theorem VM.endTick_ring (vm : VM) : (vm.endTick).ring = vm.ring := rfl
@[simp] theorem VM.endTick_ringCtr (vm : VM) : (vm.endTick).ringCtr = vm.ringCtr := rfl
@[simp] theorem VM.endTick_console (vm : VM) : (vm.endTick).console = vm.console := rfl
@[simp] theorem VM.endTick_consoleLen (vm : VM) : (vm.endTick).consoleLen = vm.consoleLen := rfl
@[simp] theorem VM.endTick_prof (vm : VM) : (vm.endTick).prof = vm.prof := rfl
@[simp] theorem VM.endTick_pixels (vm : VM) : (vm.endTick).pixels = vm.pixels := rfl
@[simp] theorem VM.endTick_lock (vm : VM) : (vm.endTick).tick.lock = vm.tick.lock := rfl
@[simp] theorem VM.endTick_haltFlag (vm : VM) : (vm.endTick).tick.haltFlag = vm.tick.haltFlag := rfl
@[simp] theorem VM.endTick_abortFlag (vm : VM) : (vm.endTick).tick.abortFlag = vm.tick.abortFlag := rfl
@[simp] theorem VM.endTick_executed (vm : VM) : (vm.endTick).tick.executed = vm.tick.executed := rfl
@[simp] theorem VM.endTick_budget (vm : VM) : (vm.endTick).tick.budget = vm.tick.budget := rfl
@[simp] theorem VM.endTick_resumePc (vm : VM) : (vm.endTick).tick.resumePc = vm.tick.resumePc := rfl
@[simp] theorem VM.endTick_turn (vm : VM) : (vm.endTick).tick.turn = vm.tick.turn := rfl

/-! ### What those updates write -/

@[simp] theorem VM.setUnit_units (vm : VM) (u : Nat) (x : ExecUnit) :
    (vm.setUnit u x).tick.units = vm.tick.units.set u x := rfl
@[simp] theorem VM.setPc_pc (vm : VM) (pc : Word) : (vm.setPc pc).cpu.pc = pc := rfl
@[simp] theorem VM.setPc_status (vm : VM) (pc : Word) : (vm.setPc pc).cpu.status = vm.cpu.status := rfl
@[simp] theorem VM.storeMem_mem (vm : VM) (a : Nat) (n : Size) (v : Word) :
    (vm.storeMem a n v).mem = vm.mem.store a n v := rfl
@[simp] theorem VM.issuePixel_pixels (vm : VM) (p : PixelStore) : (vm.issuePixel p).pixels = vm.pixels ++ [p] := rfl
@[simp] theorem VM.setLock_lock (vm : VM) (b : Bool) : (vm.setLock b).tick.lock = b := rfl
@[simp] theorem VM.raiseHalt_haltFlag (vm : VM) : vm.raiseHalt.tick.haltFlag = true := rfl
@[simp] theorem VM.countOne_executed (vm : VM) : vm.countOne.tick.executed = vm.tick.executed + 1 := rfl
@[simp] theorem VM.claim_pc (vm : VM) (u : Nat) : (vm.claim u).cpu.pc = vm.cpu.pc + 4#32 := rfl
@[simp] theorem VM.claim_lock (vm : VM) (u : Nat) : (vm.claim u).tick.lock = false := rfl
@[simp] theorem VM.setReg_zero (vm : VM) (v : Word) : vm.setReg 0#5 v = vm := by simp [VM.setReg]
@[simp] theorem VM.reg_zero (vm : VM) : vm.reg 0#5 = 0#32 := by simp [VM.reg]

/-- The unit just replaced. -/
theorem VM.unit_setUnit (vm : VM) (u : Nat) (x : ExecUnit) (h : u < vm.tick.units.length) :
    (vm.setUnit u x).unit u = x := by
  simp [VM.unit, h]

/-- Replacing a unit leaves the others. -/
theorem VM.unit_setUnit_of_ne (vm : VM) {u w : Nat} (x : ExecUnit) (h : w ≠ u) : (vm.setUnit u x).unit w = vm.unit w := by
  simp [VM.unit, Ne.symm h]

/-! ### The console and the register port leave the rest -/

@[simp] theorem VM.appendConsole_mem (cfg : Config) (vm : VM) (b : Byte) : (vm.appendConsole cfg b).mem = vm.mem := by
  unfold VM.appendConsole; split <;> rfl
@[simp] theorem VM.appendConsole_cpu (cfg : Config) (vm : VM) (b : Byte) : (vm.appendConsole cfg b).cpu = vm.cpu := by
  unfold VM.appendConsole; split <;> rfl
@[simp] theorem VM.appendConsole_vmStatus (cfg : Config) (vm : VM) (b : Byte) : (vm.appendConsole cfg b).vmStatus = vm.vmStatus := by
  unfold VM.appendConsole; split <;> rfl
@[simp] theorem VM.appendConsole_ring (cfg : Config) (vm : VM) (b : Byte) : (vm.appendConsole cfg b).ring = vm.ring := by
  unfold VM.appendConsole; split <;> rfl
@[simp] theorem VM.appendConsole_ringCtr (cfg : Config) (vm : VM) (b : Byte) : (vm.appendConsole cfg b).ringCtr = vm.ringCtr := by
  unfold VM.appendConsole; split <;> rfl
@[simp] theorem VM.appendConsole_prof (cfg : Config) (vm : VM) (b : Byte) : (vm.appendConsole cfg b).prof = vm.prof := by
  unfold VM.appendConsole; split <;> rfl
@[simp] theorem VM.appendConsole_pixels (cfg : Config) (vm : VM) (b : Byte) : (vm.appendConsole cfg b).pixels = vm.pixels := by
  unfold VM.appendConsole; split <;> rfl
@[simp] theorem VM.appendConsole_tick (cfg : Config) (vm : VM) (b : Byte) : (vm.appendConsole cfg b).tick = vm.tick := by
  unfold VM.appendConsole; split <;> rfl

/-! ### State.withVm, withCtx, setNext, withVmAt, reply -/

@[simp] theorem State.withVm_cfg (s : State) (vm : VM) : (s.withVm vm).cfg = s.cfg := rfl
@[simp] theorem State.withVm_running (s : State) (vm : VM) : (s.withVm vm).running = s.running := rfl
@[simp] theorem State.withVm_cur (s : State) (vm : VM) : (s.withVm vm).cur = s.cur := rfl
@[simp] theorem State.withVm_regions (s : State) (vm : VM) : (s.withVm vm).regions = s.regions := rfl
@[simp] theorem State.withVm_counters (s : State) (vm : VM) : (s.withVm vm).counters = s.counters := rfl
@[simp] theorem State.withVm_hostIn (s : State) (vm : VM) : (s.withVm vm).hostIn = s.hostIn := rfl
@[simp] theorem State.withVm_hostOut (s : State) (vm : VM) : (s.withVm vm).hostOut = s.hostOut := rfl
@[simp] theorem State.withVm_free (s : State) (vm : VM) : (s.withVm vm).free = s.free := rfl
@[simp] theorem State.withVm_sched (s : State) (vm : VM) : (s.withVm vm).sched = s.sched := rfl
@[simp] theorem State.setReg_cfg (s : State) (r : RegIx) (v : Word) : (s.setReg r v).cfg = s.cfg := rfl
@[simp] theorem State.setReg_running (s : State) (r : RegIx) (v : Word) : (s.setReg r v).running = s.running := rfl
@[simp] theorem State.setReg_cur (s : State) (r : RegIx) (v : Word) : (s.setReg r v).cur = s.cur := rfl
@[simp] theorem State.setReg_regions (s : State) (r : RegIx) (v : Word) : (s.setReg r v).regions = s.regions := rfl
@[simp] theorem State.setReg_counters (s : State) (r : RegIx) (v : Word) : (s.setReg r v).counters = s.counters := rfl
@[simp] theorem State.setReg_hostIn (s : State) (r : RegIx) (v : Word) : (s.setReg r v).hostIn = s.hostIn := rfl
@[simp] theorem State.setReg_hostOut (s : State) (r : RegIx) (v : Word) : (s.setReg r v).hostOut = s.hostOut := rfl
@[simp] theorem State.setReg_free (s : State) (r : RegIx) (v : Word) : (s.setReg r v).free = s.free := rfl
@[simp] theorem State.setReg_sched (s : State) (r : RegIx) (v : Word) : (s.setReg r v).sched = s.sched := rfl
@[simp] theorem State.setNext_cfg (s : State) (next : Word) (stop : Bool) : (s.setNext next stop).cfg = s.cfg := rfl
@[simp] theorem State.setNext_running (s : State) (next : Word) (stop : Bool) : (s.setNext next stop).running = s.running := rfl
@[simp] theorem State.setNext_cur (s : State) (next : Word) (stop : Bool) : (s.setNext next stop).cur = s.cur := rfl
@[simp] theorem State.setNext_regions (s : State) (next : Word) (stop : Bool) : (s.setNext next stop).regions = s.regions := rfl
@[simp] theorem State.setNext_counters (s : State) (next : Word) (stop : Bool) : (s.setNext next stop).counters = s.counters := rfl
@[simp] theorem State.setNext_hostIn (s : State) (next : Word) (stop : Bool) : (s.setNext next stop).hostIn = s.hostIn := rfl
@[simp] theorem State.setNext_hostOut (s : State) (next : Word) (stop : Bool) : (s.setNext next stop).hostOut = s.hostOut := rfl
@[simp] theorem State.setNext_free (s : State) (next : Word) (stop : Bool) : (s.setNext next stop).free = s.free := rfl
@[simp] theorem State.setNext_sched (s : State) (next : Word) (stop : Bool) : (s.setNext next stop).sched = s.sched := rfl
@[simp] theorem State.withCtx_cfg (s : State) (c : Ctx) : (s.withCtx c).cfg = s.cfg := rfl
@[simp] theorem State.withCtx_running (s : State) (c : Ctx) : (s.withCtx c).running = s.running := rfl
@[simp] theorem State.withCtx_cur (s : State) (c : Ctx) : (s.withCtx c).cur = s.cur := rfl
@[simp] theorem State.withCtx_regions (s : State) (c : Ctx) : (s.withCtx c).regions = s.regions := rfl
@[simp] theorem State.withCtx_counters (s : State) (c : Ctx) : (s.withCtx c).counters = s.counters := rfl
@[simp] theorem State.withCtx_hostIn (s : State) (c : Ctx) : (s.withCtx c).hostIn = s.hostIn := rfl
@[simp] theorem State.withCtx_hostOut (s : State) (c : Ctx) : (s.withCtx c).hostOut = s.hostOut := rfl
@[simp] theorem State.withCtx_sched (s : State) (c : Ctx) : (s.withCtx c).sched = s.sched := rfl
@[simp] theorem State.withVmAt_cfg (s : State) (v : VmId) (vm : VM) : (s.withVmAt v vm).cfg = s.cfg := rfl
@[simp] theorem State.withVmAt_running (s : State) (v : VmId) (vm : VM) : (s.withVmAt v vm).running = s.running := rfl
@[simp] theorem State.withVmAt_cur (s : State) (v : VmId) (vm : VM) : (s.withVmAt v vm).cur = s.cur := rfl
@[simp] theorem State.withVmAt_regions (s : State) (v : VmId) (vm : VM) : (s.withVmAt v vm).regions = s.regions := rfl
@[simp] theorem State.withVmAt_counters (s : State) (v : VmId) (vm : VM) : (s.withVmAt v vm).counters = s.counters := rfl
@[simp] theorem State.withVmAt_hostIn (s : State) (v : VmId) (vm : VM) : (s.withVmAt v vm).hostIn = s.hostIn := rfl
@[simp] theorem State.withVmAt_hostOut (s : State) (v : VmId) (vm : VM) : (s.withVmAt v vm).hostOut = s.hostOut := rfl
@[simp] theorem State.withVmAt_free (s : State) (v : VmId) (vm : VM) : (s.withVmAt v vm).free = s.free := rfl
@[simp] theorem State.withVmAt_sched (s : State) (v : VmId) (vm : VM) : (s.withVmAt v vm).sched = s.sched := rfl
@[simp] theorem State.reply_cfg (s : State) (r : HostReply) : (s.reply r).cfg = s.cfg := rfl
@[simp] theorem State.reply_running (s : State) (r : HostReply) : (s.reply r).running = s.running := rfl
@[simp] theorem State.reply_cur (s : State) (r : HostReply) : (s.reply r).cur = s.cur := rfl
@[simp] theorem State.reply_regions (s : State) (r : HostReply) : (s.reply r).regions = s.regions := rfl
@[simp] theorem State.reply_counters (s : State) (r : HostReply) : (s.reply r).counters = s.counters := rfl
@[simp] theorem State.reply_hostIn (s : State) (r : HostReply) : (s.reply r).hostIn = s.hostIn := rfl
@[simp] theorem State.reply_free (s : State) (r : HostReply) : (s.reply r).free = s.free := rfl
@[simp] theorem State.reply_sched (s : State) (r : HostReply) : (s.reply r).sched = s.sched := rfl
@[simp] theorem State.endTick_cfg (s : State) : s.endTick.cfg = s.cfg := rfl
@[simp] theorem State.endTick_cur (s : State) : s.endTick.cur = s.cur := rfl
@[simp] theorem State.endTick_regions (s : State) : s.endTick.regions = s.regions := rfl
@[simp] theorem State.endTick_counters (s : State) : s.endTick.counters = s.counters := rfl
@[simp] theorem State.endTick_hostIn (s : State) : s.endTick.hostIn = s.hostIn := rfl
@[simp] theorem State.endTick_hostOut (s : State) : s.endTick.hostOut = s.hostOut := rfl
@[simp] theorem State.endTick_free (s : State) : s.endTick.free = s.free := rfl
@[simp] theorem State.endTick_sched (s : State) : s.endTick.sched = s.sched := rfl
@[simp] theorem State.claim_cfg (s : State) : s.claim.cfg = s.cfg := rfl
@[simp] theorem State.claim_running (s : State) : s.claim.running = s.running := rfl
@[simp] theorem State.claim_cur (s : State) : s.claim.cur = s.cur := rfl
@[simp] theorem State.claim_regions (s : State) : s.claim.regions = s.regions := rfl
@[simp] theorem State.claim_counters (s : State) : s.claim.counters = s.counters := rfl
@[simp] theorem State.claim_hostIn (s : State) : s.claim.hostIn = s.hostIn := rfl
@[simp] theorem State.claim_hostOut (s : State) : s.claim.hostOut = s.hostOut := rfl
@[simp] theorem State.claim_free (s : State) : s.claim.free = s.free := rfl
@[simp] theorem State.claim_sched (s : State) : s.claim.sched = s.sched := rfl
@[simp] theorem State.finish_cfg (s : State) : s.finish.cfg = s.cfg := rfl
@[simp] theorem State.finish_running (s : State) : s.finish.running = s.running := rfl
@[simp] theorem State.finish_cur (s : State) : s.finish.cur = s.cur := rfl
@[simp] theorem State.finish_regions (s : State) : s.finish.regions = s.regions := rfl
@[simp] theorem State.finish_counters (s : State) : s.finish.counters = s.counters := rfl
@[simp] theorem State.finish_hostIn (s : State) : s.finish.hostIn = s.hostIn := rfl
@[simp] theorem State.finish_hostOut (s : State) : s.finish.hostOut = s.hostOut := rfl
@[simp] theorem State.finish_free (s : State) : s.finish.free = s.free := rfl
@[simp] theorem State.finish_sched (s : State) : s.finish.sched = s.sched := rfl
@[simp] theorem State.withCtx_free (s : State) (c : Ctx) : (s.withCtx c).free = c.free := rfl
@[simp] theorem State.reply_vms (s : State) (r : HostReply) : (s.reply r).vms = s.vms := rfl
@[simp] theorem State.endTick_running (s : State) : s.endTick.running = false := rfl

/-- The VM of the tick, just replaced. -/
@[simp] theorem State.withVm_vm (s : State) (vm : VM) : (s.withVm vm).vm = vm := by
  simp [State.withVm, State.vm]

/-- Replacing the VM of the tick twice. -/
@[simp] theorem State.withVm_withVm (s : State) (vm vm' : VM) : (s.withVm vm).withVm vm' = s.withVm vm' := by
  simp [State.withVm]

/-- Putting the VM of the tick back. -/
@[simp] theorem State.withVm_self (s : State) : s.withVm s.vm = s := by
  simp [State.withVm, State.vm]

/-- The VM of the tick, and the others, after the VM of the tick is replaced. -/
theorem State.withVm_vms (s : State) (vm : VM) (v : VmId) :
    (s.withVm vm).vms[v] = if v = s.cur then vm else s.vms[v] := by
  by_cases h : v = s.cur
  · subst h; simp [State.withVm]
  · have : s.cur.val ≠ v.val := fun e => h (Fin.ext e.symm)
    simp [State.withVm, h, this]

/-- The same for a VM replaced by its id. -/
theorem State.withVmAt_vms (s : State) (w : VmId) (vm : VM) (v : VmId) :
    (s.withVmAt w vm).vms[v] = if v = w then vm else s.vms[v] := by
  by_cases h : v = w
  · subst h; simp [State.withVmAt]
  · have : w.val ≠ v.val := fun e => h (Fin.ext e.symm)
    simp [State.withVmAt, h, this]

@[simp] theorem State.withCtx_vm (s : State) (c : Ctx) : (s.withCtx c).vm = c.vm := State.withVm_vm s c.vm

@[simp] theorem State.setNext_vm (s : State) (next : Word) (stop : Bool) :
    (s.setNext next stop).vm = s.vm.setUnit s.vm.tick.turn { s.unit with next := next, stop := stop } :=
  State.withVm_vm _ _

@[simp] theorem State.setReg_vm (s : State) (r : RegIx) (v : Word) : (s.setReg r v).vm = s.vm.setReg r v :=
  State.withVm_vm _ _

/-- Putting back what an instruction was given, when it left the draws alone. -/
@[simp] theorem State.withCtx_ctx (s : State) (vm : VM) : s.withCtx ⟨s.cur, vm, s.free⟩ = s.withVm vm := rfl

end Sys2Proof.Machine
end

