-- ==== Sys2Proof/Laws/Ops.lean ====
section
/-! SUPPORT. Laws of the shared operations: what an access, a run of accesses and `exec` can do. -/

namespace Sys2Proof.Machine

/-! ### exec and the accesses of Micro.lean are the same meanings -/

/-- `exec` runs the accesses `meaningOf` names. -/
theorem exec_eq_execute (i : Instr) (s : State) : exec i s = s.execute (meaningOf i) := by cases i <;> rfl

/-! ### Register ports -/

theorem VM.reg_of_ne (vm : VM) {r : RegIx} (h : r ≠ 0#5) : vm.reg r = vm.mem.load (4 * r.toNat) .word := by
  simp [VM.reg, h]

theorem VM.setReg_mem_of_ne (vm : VM) {r : RegIx} (h : r ≠ 0#5) (v : Word) :
    (vm.setReg r v).mem = vm.mem.store (4 * r.toNat) .word v := by simp [VM.setReg, h]

/-- A register write keeps the canonical form of memory. -/
theorem VM.setReg_wf {vm : VM} (h : vm.mem.wf = true) (r : RegIx) (v : Word) : (vm.setReg r v).mem.wf = true := by
  unfold VM.setReg; split
  · exact h
  · exact Memory.wf_store h (4 * r.toNat) .word v

/-- A register write changes bytes 4r to 4r+3 only. -/
theorem VM.setReg_get {vm : VM} (h : vm.mem.wf = true) (r : RegIx) (v : Word) {a : Nat}
    (ha : a < 4 * r.toNat ∨ 4 * r.toNat + 4 ≤ a) : (vm.setReg r v).mem.get a = vm.mem.get a := by
  unfold VM.setReg; split
  · rfl
  · exact Memory.get_store_of_outside (n := .word) h v ha

/-! ### One access -/

/-- What no access of an instruction changes: the VM, its CPUState, its profiler, its scheduler state but the halt flag
(R30, R38, R371); and the halt flag and the status only go towards stopping the VM (R283, R285). -/
structure Ctx.Kept (c c' : Ctx) : Prop where
  vmId : c'.vmId = c.vmId
  cpu : c'.vm.cpu = c.vm.cpu
  prof : c'.vm.prof = c.vm.prof
  tick : c'.vm.tick = { c.vm.tick with haltFlag := c'.vm.tick.haltFlag }
  halt : c.vm.tick.haltFlag = true → c'.vm.tick.haltFlag = true
  status : c'.vm.vmStatus = c.vm.vmStatus ∨ c'.vm.vmStatus = .waitingSyscall

theorem Ctx.Kept.refl (c : Ctx) : c.Kept c := ⟨rfl, rfl, rfl, rfl, id, .inl rfl⟩

theorem Ctx.Kept.trans {c d e : Ctx} (h : c.Kept d) (h' : d.Kept e) : c.Kept e where
  vmId := h'.vmId.trans h.vmId
  cpu := h'.cpu.trans h.cpu
  prof := h'.prof.trans h.prof
  tick := by rw [h'.tick, h.tick]
  halt := h'.halt ∘ h.halt
  status := by
    rcases h'.status with e | e
    · rw [e]; exact h.status
    · exact .inr e

/-- A data read changes nothing but, in the window, the draw counter (R63, R72, R73). -/
theorem memRead_ok {cfg : Config} {c c' : Ctx} {a : Word} {n : Size} {v : Word} (h : memRead cfg c a n = .ok (v, c')) :
    (readKind cfg a.toNat n = .plain ∧ v = c.vm.mem.load a.toNat n ∧ c' = c) ∨
    (readKind cfg a.toNat n = .window ∧ v = n.trunc (Config.freeWord c.free) ∧ c' = { c with free := c.free + 1 }) := by
  unfold memRead at h
  split at h
  · next hk => cases h; exact .inl ⟨hk, rfl, rfl⟩
  · next hk => cases h; exact .inr ⟨hk, rfl, rfl⟩
  · cases h

/-- A data write stores to plain memory or issues one pixel transaction (R64). -/
theorem memWrite_ok {cfg : Config} {c c' : Ctx} {a : Word} {n : Size} {v : Word} (h : memWrite cfg c a n v = .ok c') :
    (writeKind cfg a.toNat n = .plain ∧ c' = { c with vm := c.vm.storeMem a.toNat n v }) ∨
    (writeKind cfg a.toNat n = .pixel ∧ c' = { c with vm := c.vm.issuePixel (pixelStore cfg a.toNat v) }) := by
  unfold memWrite at h
  split at h
  · next hk => cases h; exact .inl ⟨hk, rfl⟩
  · next hk => cases h; exact .inr ⟨hk, rfl⟩
  · cases h

/-- A plain read or write stays below MEM_SIZE (R63, R64). -/
theorem writeKind_plain {cfg : Config} {a : Nat} {n : Size} (h : writeKind cfg a n = .plain) : a + n.bytes ≤ cfg.memSize := by
  unfold writeKind at h
  repeat' split at h
  all_goals first | omega | cases h

theorem readKind_plain {cfg : Config} {a : Nat} {n : Size} (h : readKind cfg a n = .plain) : a + n.bytes ≤ cfg.memSize := by
  unfold readKind at h
  repeat' split at h
  all_goals first | omega | cases h

theorem Event.perform_kept {cfg : Config} {e : Event} {c c' : Ctx} {v : Word} (h : e.perform cfg c = .ok (v, c')) :
    c.Kept c' := by
  cases e <;> simp only [Event.perform] at h
  case readReg => cases h; exact .refl c
  case writeReg => cases h; exact ⟨rfl, by simp, by simp, by simp, by simp, by simp⟩
  case load =>
    rcases memRead_ok h with ⟨-, -, he⟩ | ⟨-, -, he⟩ <;> subst he
    · exact .refl _
    · exact ⟨rfl, rfl, rfl, rfl, id, .inl rfl⟩
  case store =>
    split at h
    · next hw =>
      cases h
      rcases memWrite_ok hw with ⟨-, rfl⟩ | ⟨-, rfl⟩ <;> exact ⟨rfl, rfl, rfl, rfl, id, .inl rfl⟩
    · cases h
  case append => cases h; exact ⟨rfl, by simp, by simp, by simp, by simp, by simp⟩
  case ringInc => cases h; exact ⟨rfl, rfl, rfl, rfl, id, .inl rfl⟩
  case ringOwner => cases h; exact ⟨rfl, rfl, rfl, rfl, id, .inl rfl⟩
  case ringStore => cases h; exact ⟨rfl, rfl, rfl, rfl, id, .inl rfl⟩
  case setWaiting => cases h; exact ⟨rfl, rfl, rfl, rfl, id, .inr rfl⟩
  case raiseHalt => cases h; exact ⟨rfl, rfl, rfl, rfl, fun _ => rfl, .inl rfl⟩
  case draw => cases h; exact ⟨rfl, rfl, rfl, rfl, id, .inl rfl⟩
  case choose => cases h; exact .refl c

/-- Memory after one access: a register write or a plain store, or the same. -/
theorem Event.perform_mem {cfg : Config} {e : Event} {c c' : Ctx} {v : Word} (h : e.perform cfg c = .ok (v, c')) :
    c'.vm.mem = c.vm.mem ∨ (∃ r w, c'.vm.mem = (c.vm.setReg r w).mem) ∨
      ∃ a n w, writeKind cfg a n = .plain ∧ c'.vm.mem = c.vm.mem.store a n w := by
  cases e <;> simp only [Event.perform] at h
  case writeReg r w => cases h; exact .inr (.inl ⟨r, w, rfl⟩)
  case load =>
    rcases memRead_ok h with ⟨-, -, rfl⟩ | ⟨-, -, rfl⟩ <;> exact .inl rfl
  case store a n w =>
    split at h
    · next hw =>
      cases h
      rcases memWrite_ok hw with ⟨hk, rfl⟩ | ⟨-, rfl⟩
      · exact .inr (.inr ⟨_, _, _, hk, rfl⟩)
      · exact .inl rfl
    · cases h
  case append => cases h; exact .inl (by simp)
  all_goals cases h; exact .inl rfl

/-- An access keeps the canonical form of memory. -/
theorem Event.perform_wf {cfg : Config} {e : Event} {c c' : Ctx} {v : Word} (h : e.perform cfg c = .ok (v, c'))
    (hw : c.vm.mem.wf = true) : c'.vm.mem.wf = true := by
  rcases e.perform_mem h with he | ⟨r, w, he⟩ | ⟨a, n, w, -, he⟩
  · rw [he]; exact hw
  · rw [he]; exact VM.setReg_wf hw r w
  · rw [he]; exact Memory.wf_store hw a n w

/-! ### All the accesses of an instruction -/

/-- A property that every access keeps is kept by a whole instruction. -/
theorem Act.run_induction {cfg : Config} {P : Ctx → Prop}
    (hstep : ∀ (e : Event) (c c' : Ctx) (v : Word), e.perform cfg c = .ok (v, c') → P c → P c')
    {a : Act} {c : Ctx} {d : Done} (h : a.run cfg c = .ok d) (hc : P c) : P d.ctx := by
  induction a generalizing c with
  | ret next stop => simp only [Act.run] at h; cases h; exact hc
  | op e k ih =>
    simp only [Act.run] at h
    split at h
    · next v c' he => exact ih v h (hstep e c c' v he hc)
    · cases h

theorem Act.run_kept {cfg : Config} {a : Act} {c : Ctx} {d : Done} (h : a.run cfg c = .ok d) : c.Kept d.ctx :=
  Act.run_induction (P := fun c' => c.Kept c') (fun e _ _ _ he hc => hc.trans (e.perform_kept he)) h (.refl c)

theorem Act.run_wf {cfg : Config} {a : Act} {c : Ctx} {d : Done} (h : a.run cfg c = .ok d) (hw : c.vm.mem.wf = true) :
    d.ctx.vm.mem.wf = true :=
  Act.run_induction (P := fun c => c.vm.mem.wf = true) (fun e _ _ _ he hc => e.perform_wf he hc) h hw

/-! ### A unit alone, whatever its choices answer -/

/-- The instruction, run alone with some answers to its choices, ends as `d`. -/
inductive Act.Ends (cfg : Config) : Act → Ctx → Done → Prop where
  | ret (next : Word) (stop : Bool) (c : Ctx) : Ends cfg (.ret next stop) c ⟨next, stop, c⟩
  | op {e : Event} {k : Word → Act} {c c' : Ctx} {d : Done} {v : Word} (he : e ≠ .choose)
      (hp : e.perform cfg c = .ok (v, c')) (h : Ends cfg (k v) c' d) : Ends cfg (.op e k) c d
  | choose {k : Word → Act} {c : Ctx} {d : Done} (v : Word) (h : Ends cfg (k v) c d) : Ends cfg (.op .choose k) c d

theorem Act.ends_ret {cfg : Config} {next : Word} {stop : Bool} {c : Ctx} {d : Done} :
    Act.Ends cfg (.ret next stop) c d ↔ d = ⟨next, stop, c⟩ :=
  ⟨fun h => by cases h; rfl, fun h => h ▸ .ret next stop c⟩

theorem Act.ends_op {cfg : Config} {e : Event} (he : e ≠ .choose) {k : Word → Act} {c : Ctx} {d : Done} :
    Act.Ends cfg (.op e k) c d ↔ ∃ v c', e.perform cfg c = .ok (v, c') ∧ (k v).Ends cfg c' d :=
  ⟨fun h => by cases h with | op _ hp h => exact ⟨_, _, hp, h⟩ | choose => exact absurd rfl he,
    fun ⟨_, _, hp, h⟩ => .op he hp h⟩

theorem Act.ends_choose {cfg : Config} {k : Word → Act} {c : Ctx} {d : Done} :
    Act.Ends cfg (.op .choose k) c d ↔ ∃ v, (k v).Ends cfg c d :=
  ⟨fun h => by cases h with | op he => exact absurd rfl he | choose v h => exact ⟨v, h⟩, fun ⟨v, h⟩ => .choose v h⟩

/-- `run` is one of the ways to end. -/
theorem Act.run_ends {cfg : Config} {a : Act} {c : Ctx} {d : Done} (h : a.run cfg c = .ok d) : a.Ends cfg c d := by
  induction a generalizing c with
  | ret next stop => simp only [Act.run] at h; cases h; exact .ret _ _ _
  | op e k ih =>
    simp only [Act.run] at h
    split at h
    · next v c' hp =>
      by_cases he : e = .choose
      · subst he; cases hp; exact .choose _ (ih _ h)
      · exact .op he hp (ih _ h)
    · cases h

/-- Alone, two registers read in either order are the registers. -/
theorem readBoth_ends {cfg : Config} {r q : RegIx} {k : Word → Word → Act} {c : Ctx} {d : Done} :
    (readBoth r q k).Ends cfg c d ↔ (k (c.vm.reg r) (c.vm.reg q)).Ends cfg c d := by
  rw [readBoth, Act.ends_choose]
  constructor
  · rintro ⟨n, h⟩
    split at h <;> simpa [Act.ends_op, Event.perform] using h
  · intro h
    exact ⟨0#32, by simpa [Act.ends_op, Event.perform] using h⟩

/-- One word of an entry (R364). -/
def SyscallEntry.field (e : SyscallEntry) : SyscallField → Word
  | .vmId => e.vmId
  | .number => e.number
  | .arg0 => e.arg0
  | .arg1 => e.arg1
  | .arg2 => e.arg2
  | .arg3 => e.arg3
  | .arg4 => e.arg4
  | .arg5 => e.arg5
  | .result => e.result

theorem SyscallEntry.ext_field {a b : SyscallEntry} (h : ∀ f, a.field f = b.field f) : a = b := by
  have := h .vmId; have := h .number; have := h .arg0; have := h .arg1; have := h .arg2; have := h .arg3
  have := h .arg4; have := h .arg5; have := h .result
  cases a; cases b; simp_all [SyscallEntry.field]

theorem SyscallEntry.setField_field (e : SyscallEntry) (f g : SyscallField) (v : Word) :
    (e.setField f v).field g = if g = f then v else e.field g := by cases f <;> cases g <;> rfl

/-- The word a task writes, and its place in the entry. -/
def SlotTask.field : SlotTask → SyscallField
  | .owner => .vmId
  | .put f _ => f
  | .copy f _ => f
def SlotTask.word (c : Ctx) : SlotTask → Word
  | .owner => BitVec.ofNat 32 c.vmId.val
  | .put _ v => v
  | .copy _ r => c.vm.reg r

theorem chooseFrom_perm {α : Type} [Inhabited α] {l : List α} (h : l ≠ []) (k : Nat) :
    ((chooseFrom l k).1 :: (chooseFrom l k).2).Perm l := by
  have hk : k % l.length < l.length := Nat.mod_lt _ (List.length_pos_iff.2 h)
  rw [chooseFrom, List.getD_eq_getElem _ _ hk]
  exact List.getElem_cons_eraseIdx_perm hk

/-- A slot whose words are all a record's holds the record. -/
theorem Ctx.slot_filled {c : Ctx} {slot : Fin 16} {target : SyscallEntry}
    (h : ∀ f, (c.vm.ring[slot]).field f = target.field f) :
    c = { c with vm := { c.vm with ring := c.vm.ring.set slot target } } := by
  rw [← SyscallEntry.ext_field h]
  simp

/-- Alone, tasks in any order leave the entry whose words they write, if together they write every word that is not
written yet. -/
theorem fillSlot_ends {cfg : Config} {ctr : Word} {k : Act} {target : SyscallEntry} {fuel : Nat} {todo : List SlotTask}
    {c : Ctx} {d : Done} (hf : (todo.map SlotTask.size).sum ≤ fuel)
    (hv : ∀ t ∈ todo, t.word c = target.field t.field)
    (hd : ∀ f, (∃ t ∈ todo, t.field = f) ∨ (c.vm.ring[ringSlot ctr]).field f = target.field f)
    (h : (fillSlot ctr k fuel todo).Ends cfg c d) :
    k.Ends cfg { c with vm := { c.vm with ring := c.vm.ring.set (ringSlot ctr) target } } d := by
  induction fuel generalizing todo c with
  | zero =>
    have e : todo = [] := by
      cases todo with
      | nil => rfl
      | cons t _ => cases t <;> simp [SlotTask.size] at hf
    rw [← Ctx.slot_filled fun f => (hd f).resolve_left (by simp [e])]; exact h
  | succ fuel ih =>
    rw [fillSlot] at h
    split at h
    · next e => rw [← Ctx.slot_filled fun f => (hd f).resolve_left (by simp [List.isEmpty_iff.1 e])]; exact h
    · next e =>
      have hne : todo ≠ [] := by simpa using e
      obtain ⟨n, h⟩ := Act.ends_choose.1 h
      have hp := chooseFrom_perm hne n.toNat
      rcases hc : chooseFrom todo n.toNat with ⟨task, others⟩
      rw [hc] at hp h
      have hmem : ∀ t, t ∈ todo ↔ t = task ∨ t ∈ others := fun t => by rw [← hp.mem_iff]; simp
      have hsum : task.size + (others.map SlotTask.size).sum ≤ fuel + 1 := by
        rw [← (hp.map SlotTask.size).sum_eq] at hf; simpa using hf
      have hw := hv task ((hmem task).2 (.inl rfl))
      have hv' : ∀ t ∈ others ++ task.after (task.word c), t.word c = target.field t.field := by
        intro t ht
        rcases List.mem_append.1 ht with ht | ht
        · exact hv t ((hmem t).2 (.inr ht))
        · cases task with
          | copy f r => rw [List.mem_singleton.1 ht]; exact hw
          | owner => simp [SlotTask.after] at ht
          | put f v => simp [SlotTask.after] at ht
      have hs' : ((others ++ task.after (task.word c)).map SlotTask.size).sum ≤ fuel := by
        cases task <;> simp [SlotTask.after, SlotTask.size] at hsum ⊢ <;> omega
      -- a task that writes its word leaves the entry right where it is not still to be written
      have wrote : ∀ f, (∃ t ∈ others, t.field = f) ∨
          ((c.vm.ring[ringSlot ctr]).setField task.field (task.word c)).field f = target.field f := by
        intro f
        rcases hd f with ⟨t, ht, hf'⟩ | hf'
        · rcases (hmem t).1 ht with rfl | ht
          · right; rw [SyscallEntry.setField_field, if_pos hf'.symm, hw, hf']
          · exact .inl ⟨t, ht, hf'⟩
        · right; rw [SyscallEntry.setField_field]
          split
          · next e => rw [hw, e]
          · exact hf'
      have writes : ∀ c', c' = { c with vm := c.vm.storeRing (ringSlot ctr) task.field (task.word c) } →
          task.after (task.word c) = [] → (fillSlot ctr k fuel others).Ends cfg c' d →
          k.Ends cfg { c with vm := { c.vm with ring := c.vm.ring.set (ringSlot ctr) target } } d := by
        rintro _ rfl hnil h
        rw [hnil, List.append_nil] at hv' hs'
        have := ih hs' (fun t ht => by cases t <;> exact hv' _ ht) (by simpa [VM.storeRing] using wrote) h
        simpa [VM.storeRing] using this
      simp only at h
      cases task with
      | owner =>
        obtain ⟨v, c', hp, h⟩ := (Act.ends_op (by simp [SlotTask.event])).1 h
        cases hp
        simp only [SlotTask.after, List.append_nil] at h
        exact writes _ rfl rfl h
      | put f v =>
        obtain ⟨_, c', hp, h⟩ := (Act.ends_op (by simp [SlotTask.event])).1 h
        cases hp
        simp only [SlotTask.after, List.append_nil] at h
        exact writes _ rfl rfl h
      | copy f r =>
        obtain ⟨_, c', hp, h⟩ := (Act.ends_op (by simp [SlotTask.event])).1 h
        cases hp
        refine ih hs' hv' (fun g => ?_) h
        rcases hd g with ⟨t, ht, hg⟩ | hg
        · rcases (hmem t).1 ht with rfl | ht
          · exact .inl ⟨.put f (c.vm.reg r), by simp [SlotTask.after, SlotTask.word], hg⟩
          · exact .inl ⟨t, by simp [ht], hg⟩
        · exact .inr hg

/-- Filling a slot is never refused. -/
theorem fillSlot_run (cfg : Config) (ctr : Word) (k : Act) (fuel : Nat) (todo : List SlotTask) (c : Ctx) :
    ∃ c', (fillSlot ctr k fuel todo).run cfg c = k.run cfg c' := by
  induction fuel generalizing todo c with
  | zero => exact ⟨c, rfl⟩
  | succ fuel ih =>
    rw [fillSlot]
    split
    · exact ⟨c, rfl⟩
    · simp only [Act.run, Event.perform]
      rcases chooseFrom todo (0#32).toNat with ⟨task, others⟩
      cases task <;> exact ih _ _

/-- What a queued call leaves: one slot holds the new record, the counter is one more, the VM waits, the unit stops
(R283). -/
def queued (n pc : Word) (c : Ctx) : Done :=
  ⟨pc + 4#32, true, { c with vm := { c.vm with
    ringCtr := c.vm.ringCtr + 1#32
    ring := c.vm.ring.set (ringSlot c.vm.ringCtr) ⟨BitVec.ofNat 32 c.vmId.val, n, c.vm.reg 10#5, c.vm.reg 11#5,
      c.vm.reg 12#5, c.vm.reg 13#5, c.vm.reg 14#5, c.vm.reg 15#5, 0#32⟩
    vmStatus := .waitingSyscall } }⟩

/-- Alone, a queued call ends so, whatever order its slot is filled in. -/
theorem queueSyscall_ends {cfg : Config} {n pc : Word} {c : Ctx} {d : Done} (h : (queueSyscall n pc).Ends cfg c d) :
    d = queued n pc c := by
  obtain ⟨ctr, c', hp, h⟩ := (Act.ends_op (by simp)).1 h
  cases hp
  have := fillSlot_ends (target := ⟨BitVec.ofNat 32 c.vmId.val, n, c.vm.reg 10#5, c.vm.reg 11#5, c.vm.reg 12#5,
    c.vm.reg 13#5, c.vm.reg 14#5, c.vm.reg 15#5, 0#32⟩) (le_refl _)
    (by simp [slotTasks, SlotTask.word, SlotTask.field, SyscallEntry.field, VM.reg])
    (fun f => .inl (by cases f <;> simp [slotTasks, SlotTask.field])) h
  obtain ⟨_, c'', hp, h⟩ := (Act.ends_op (by simp)).1 this
  cases hp
  rw [Act.ends_ret.1 h]
  rfl

/-- The whole of a queued call. -/
theorem queueSyscall_run (cfg : Config) (n pc : Word) (c : Ctx) :
    (queueSyscall n pc).run cfg c = .ok (queued n pc c) := by
  have ⟨d, h⟩ : ∃ d, (queueSyscall n pc).run cfg c = .ok d := by
    simp only [queueSyscall, Act.run, Event.perform]
    have ⟨c', h⟩ := fillSlot_run cfg c.vm.ringCtr (.op .setWaiting fun _ => .ret (pc + 4#32) true)
      ((slotTasks n).map SlotTask.size).sum (slotTasks n) { c with vm := { c.vm with ringCtr := c.vm.ringCtr + 1#32 } }
    rw [h]
    exact ⟨_, rfl⟩
  rw [h, queueSyscall_ends (Act.run_ends h)]

/-- Alone, these accesses end in one way, the way of `run`, whatever their choices answer. -/
def Act.Settled (cfg : Config) (a : Act) : Prop := ∀ c d, a.Ends cfg c d → a.run cfg c = .ok d

theorem Act.settled_ret (cfg : Config) (next : Word) (stop : Bool) : (Act.ret next stop).Settled cfg :=
  fun _ _ h => by rw [Act.ends_ret.1 h]; rfl

theorem Act.settled_op {cfg : Config} {e : Event} (he : e ≠ .choose) {k : Word → Act} (hk : ∀ v, (k v).Settled cfg) :
    (Act.op e k).Settled cfg := fun c d h => by
  obtain ⟨v, c', hp, h⟩ := (Act.ends_op he).1 h
  simpa only [Act.run, hp] using hk v c' d h

theorem readBoth_settled {cfg : Config} {r q : RegIx} {k : Word → Word → Act} (hk : ∀ a b, (k a b).Settled cfg) :
    (readBoth r q k).Settled cfg := fun c d h => by
  simpa [readBoth, Act.run, Event.perform] using hk _ _ c d (readBoth_ends.1 h)

theorem queueSyscall_settled (cfg : Config) (n pc : Word) : (queueSyscall n pc).Settled cfg :=
  fun c d h => by rw [queueSyscall_ends h, queueSyscall_run]

theorem copyToConsole_settled {cfg : Config} {k : Act} (hk : k.Settled cfg) :
    ∀ (n : Nat) (ptr : Word), (copyToConsole k n ptr).Settled cfg
  | 0, _ => hk
  | n + 1, ptr => Act.settled_op (by simp) fun _ => Act.settled_op (by simp) fun _ =>
      copyToConsole_settled hk n (ptr + 1#32)

theorem consoleWrite_settled (cfg : Config) (pc : Word) : (consoleWrite pc).Settled cfg := by
  have done : (fallThrough pc).Settled cfg := Act.settled_ret cfg _ _
  refine Act.settled_op (by simp) fun fd => Act.settled_op (by simp) fun ptr => Act.settled_op (by simp) fun len => ?_
  split
  · exact copyToConsole_settled done len.toNat ptr
  · exact done

/-- Alone, an instruction ends in one way, whatever its choices answer. -/
theorem meaningOf_settled (i : Instr) (cfg : Config) (pc : Word) : (meaningOf i cfg pc).Settled cfg := by
  have ret := Act.settled_ret cfg
  have write : ∀ rd v, (writeBack rd v pc).Settled cfg := fun _ _ => Act.settled_op (by simp) fun _ => ret _ _
  cases i
  case ecall =>
    refine Act.settled_op (by simp) fun n => ?_
    split
    · exact consoleWrite_settled cfg pc
    · exact queueSyscall_settled cfg n pc
  case fcvtWS =>
    refine Act.settled_op (by simp) fun _ => ?_
    split
    · exact write _ _
    · exact Act.settled_op (by simp) fun _ => write _ _
  all_goals first
    | exact ret _ _
    | exact write _ _
    | exact Act.settled_op (by simp) fun _ => ret _ _
    | exact Act.settled_op (by simp) fun _ => write _ _
    | exact Act.settled_op (by simp) fun _ => Act.settled_op (by simp) fun _ => ret _ _
    | exact Act.settled_op (by simp) fun _ => Act.settled_op (by simp) fun _ => write _ _
    | exact readBoth_settled fun _ _ => ret _ _
    | exact readBoth_settled fun _ _ => write _ _
    | exact readBoth_settled fun _ _ => Act.settled_op (by simp) fun _ => ret _ _

/-! ### execute and exec -/

/-- Running an instruction never faults; it answers a next state or is refused. -/
theorem State.execute_cases (m : Meaning) (s : State) :
    (∃ d, (m s.cfg s.ia).run s.cfg s.ctx = .ok d ∧ s.execute m = .next ((s.withCtx d.ctx).setNext d.next d.stop)) ∨
    ∃ r, (m s.cfg s.ia).run s.cfg s.ctx = .error r ∧ s.execute m = .refused r := by
  unfold State.execute
  cases h : (m s.cfg s.ia).run s.cfg s.ctx with
  | ok d => exact .inl ⟨d, rfl, rfl⟩
  | error r => exact .inr ⟨r, rfl, rfl⟩

/-- Everything `exec` does when it answers a next state. -/
theorem exec_next {i : Instr} {s t : State} (h : exec i s = .next t) :
    ∃ d, (meaningOf i s.cfg s.ia).run s.cfg s.ctx = .ok d ∧ t = (s.withCtx d.ctx).setNext d.next d.stop := by
  rw [exec_eq_execute] at h
  rcases s.execute_cases (meaningOf i) with ⟨d, hd, he⟩ | ⟨r, -, he⟩
  · rw [he] at h; cases h; exact ⟨d, hd, rfl⟩
  · rw [he] at h; cases h

/-- No instruction faults (R400). -/
theorem exec_not_fault (i : Instr) (s : State) (f : Fault) : exec i s ≠ .fault f := by
  rw [exec_eq_execute]
  rcases s.execute_cases (meaningOf i) with ⟨_, -, he⟩ | ⟨_, -, he⟩ <;> simp [he]

end Sys2Proof.Machine
end

