-- ==== Sys2Proof/Laws/PerInstr.lean ====
section
/-! SUPPORT. Per instruction: the word of an instruction is one the opcode table gives its row (R122), and the fields
a row does not fix are free. -/

namespace Sys2Proof.Laws.EncodedRow

/-- The encoded word of `i` is taken by the row of the opcode table with the mnemonic of `i`; a well-formed
NOP.UNKNOWN word is taken by no row. -/
def Statement (i : Instr) : Prop :=
  ∀ c : FpCodes, i.wf c = true →
    if i.mnemonic = "NOP.UNKNOWN" then knownWord c (encode c i) = false
    else ∃ r ∈ opcodeRows c, r.mnemonic = i.mnemonic ∧ r.takes (encode c i) = true

theorem of_row {i : Instr} (h : i.mnemonic ≠ "NOP.UNKNOWN")
    (hr : ∀ c : FpCodes, ∃ r ∈ opcodeRows c, r.mnemonic = i.mnemonic ∧ r.takes (encode c i) = true) : Statement i := by
  intro c _
  rw [if_neg h]
  exact hr c

theorem takes_of {w mask value : Word} {mn : String} (h : w &&& mask = value) : OpcodeRow.takes ⟨mn, mask, value⟩ w = true := by
  simp [OpcodeRow.takes, h]

theorem lui (rd : RegIx) (imm : BitVec 20) : Statement (.lui rd imm) :=
  of_row (show "LUI" ≠ "NOP.UNKNOWN" by decide) fun _ => ⟨⟨"LUI", 0x0000007F#32, 0x00000037#32⟩,
    by simp [opcodeRows, immediateRows, registerRows, systemRows], rfl, takes_of ((Format.u_mask _ _ _).trans (by decide))⟩

theorem auipc (rd : RegIx) (imm : BitVec 20) : Statement (.auipc rd imm) :=
  of_row (show "AUIPC" ≠ "NOP.UNKNOWN" by decide) fun _ => ⟨⟨"AUIPC", 0x0000007F#32, 0x00000017#32⟩,
    by simp [opcodeRows, immediateRows, registerRows, systemRows], rfl, takes_of ((Format.u_mask _ _ _).trans (by decide))⟩

theorem jal (rd : RegIx) (off : BitVec 21) : Statement (.jal rd off) :=
  of_row (show "JAL" ≠ "NOP.UNKNOWN" by decide) fun _ => ⟨⟨"JAL", 0x0000007F#32, 0x0000006F#32⟩,
    by simp [opcodeRows, immediateRows, registerRows, systemRows], rfl, takes_of ((Format.j_mask _ _ _).trans (by decide))⟩

theorem jalr (rd rs1 : RegIx) (imm : BitVec 12) : Statement (.jalr rd rs1 imm) :=
  of_row (show "JALR" ≠ "NOP.UNKNOWN" by decide) fun _ => ⟨⟨"JALR", 0x0000707F#32, 0x00000067#32⟩,
    by simp [opcodeRows, immediateRows, registerRows, systemRows], rfl, takes_of ((Format.i_mask _ _ _ _ _).trans (by decide))⟩

theorem beq (rs1 rs2 : RegIx) (off : BitVec 13) : Statement (.beq rs1 rs2 off) :=
  of_row (show "BEQ" ≠ "NOP.UNKNOWN" by decide) fun _ => ⟨⟨"BEQ", 0x0000707F#32, 0x00000063#32⟩,
    by simp [opcodeRows, immediateRows, registerRows, systemRows], rfl, takes_of ((Format.b_mask _ _ _ _ _).trans (by decide))⟩

theorem bne (rs1 rs2 : RegIx) (off : BitVec 13) : Statement (.bne rs1 rs2 off) :=
  of_row (show "BNE" ≠ "NOP.UNKNOWN" by decide) fun _ => ⟨⟨"BNE", 0x0000707F#32, 0x00001063#32⟩,
    by simp [opcodeRows, immediateRows, registerRows, systemRows], rfl, takes_of ((Format.b_mask _ _ _ _ _).trans (by decide))⟩

theorem blt (rs1 rs2 : RegIx) (off : BitVec 13) : Statement (.blt rs1 rs2 off) :=
  of_row (show "BLT" ≠ "NOP.UNKNOWN" by decide) fun _ => ⟨⟨"BLT", 0x0000707F#32, 0x00004063#32⟩,
    by simp [opcodeRows, immediateRows, registerRows, systemRows], rfl, takes_of ((Format.b_mask _ _ _ _ _).trans (by decide))⟩

theorem bge (rs1 rs2 : RegIx) (off : BitVec 13) : Statement (.bge rs1 rs2 off) :=
  of_row (show "BGE" ≠ "NOP.UNKNOWN" by decide) fun _ => ⟨⟨"BGE", 0x0000707F#32, 0x00005063#32⟩,
    by simp [opcodeRows, immediateRows, registerRows, systemRows], rfl, takes_of ((Format.b_mask _ _ _ _ _).trans (by decide))⟩

theorem bltu (rs1 rs2 : RegIx) (off : BitVec 13) : Statement (.bltu rs1 rs2 off) :=
  of_row (show "BLTU" ≠ "NOP.UNKNOWN" by decide) fun _ => ⟨⟨"BLTU", 0x0000707F#32, 0x00006063#32⟩,
    by simp [opcodeRows, immediateRows, registerRows, systemRows], rfl, takes_of ((Format.b_mask _ _ _ _ _).trans (by decide))⟩

theorem bgeu (rs1 rs2 : RegIx) (off : BitVec 13) : Statement (.bgeu rs1 rs2 off) :=
  of_row (show "BGEU" ≠ "NOP.UNKNOWN" by decide) fun _ => ⟨⟨"BGEU", 0x0000707F#32, 0x00007063#32⟩,
    by simp [opcodeRows, immediateRows, registerRows, systemRows], rfl, takes_of ((Format.b_mask _ _ _ _ _).trans (by decide))⟩

theorem lb (rd rs1 : RegIx) (imm : BitVec 12) : Statement (.lb rd rs1 imm) :=
  of_row (show "LB" ≠ "NOP.UNKNOWN" by decide) fun _ => ⟨⟨"LB", 0x0000707F#32, 0x00000003#32⟩,
    by simp [opcodeRows, immediateRows, registerRows, systemRows], rfl, takes_of ((Format.i_mask _ _ _ _ _).trans (by decide))⟩

theorem lh (rd rs1 : RegIx) (imm : BitVec 12) : Statement (.lh rd rs1 imm) :=
  of_row (show "LH" ≠ "NOP.UNKNOWN" by decide) fun _ => ⟨⟨"LH", 0x0000707F#32, 0x00001003#32⟩,
    by simp [opcodeRows, immediateRows, registerRows, systemRows], rfl, takes_of ((Format.i_mask _ _ _ _ _).trans (by decide))⟩

theorem lw (rd rs1 : RegIx) (imm : BitVec 12) : Statement (.lw rd rs1 imm) :=
  of_row (show "LW" ≠ "NOP.UNKNOWN" by decide) fun _ => ⟨⟨"LW", 0x0000707F#32, 0x00002003#32⟩,
    by simp [opcodeRows, immediateRows, registerRows, systemRows], rfl, takes_of ((Format.i_mask _ _ _ _ _).trans (by decide))⟩

theorem lbu (rd rs1 : RegIx) (imm : BitVec 12) : Statement (.lbu rd rs1 imm) :=
  of_row (show "LBU" ≠ "NOP.UNKNOWN" by decide) fun _ => ⟨⟨"LBU", 0x0000707F#32, 0x00004003#32⟩,
    by simp [opcodeRows, immediateRows, registerRows, systemRows], rfl, takes_of ((Format.i_mask _ _ _ _ _).trans (by decide))⟩

theorem lhu (rd rs1 : RegIx) (imm : BitVec 12) : Statement (.lhu rd rs1 imm) :=
  of_row (show "LHU" ≠ "NOP.UNKNOWN" by decide) fun _ => ⟨⟨"LHU", 0x0000707F#32, 0x00005003#32⟩,
    by simp [opcodeRows, immediateRows, registerRows, systemRows], rfl, takes_of ((Format.i_mask _ _ _ _ _).trans (by decide))⟩

theorem sb (rs2 rs1 : RegIx) (imm : BitVec 12) : Statement (.sb rs2 rs1 imm) :=
  of_row (show "SB" ≠ "NOP.UNKNOWN" by decide) fun _ => ⟨⟨"SB", 0x0000707F#32, 0x00000023#32⟩,
    by simp [opcodeRows, immediateRows, registerRows, systemRows], rfl, takes_of ((Format.s_mask _ _ _ _ _).trans (by decide))⟩

theorem sh (rs2 rs1 : RegIx) (imm : BitVec 12) : Statement (.sh rs2 rs1 imm) :=
  of_row (show "SH" ≠ "NOP.UNKNOWN" by decide) fun _ => ⟨⟨"SH", 0x0000707F#32, 0x00001023#32⟩,
    by simp [opcodeRows, immediateRows, registerRows, systemRows], rfl, takes_of ((Format.s_mask _ _ _ _ _).trans (by decide))⟩

theorem sw (rs2 rs1 : RegIx) (imm : BitVec 12) : Statement (.sw rs2 rs1 imm) :=
  of_row (show "SW" ≠ "NOP.UNKNOWN" by decide) fun _ => ⟨⟨"SW", 0x0000707F#32, 0x00002023#32⟩,
    by simp [opcodeRows, immediateRows, registerRows, systemRows], rfl, takes_of ((Format.s_mask _ _ _ _ _).trans (by decide))⟩

theorem addi (rd rs1 : RegIx) (imm : BitVec 12) : Statement (.addi rd rs1 imm) :=
  of_row (show "ADDI" ≠ "NOP.UNKNOWN" by decide) fun _ => ⟨⟨"ADDI", 0x0000707F#32, 0x00000013#32⟩,
    by simp [opcodeRows, immediateRows, registerRows, systemRows], rfl, takes_of ((Format.i_mask _ _ _ _ _).trans (by decide))⟩

theorem slti (rd rs1 : RegIx) (imm : BitVec 12) : Statement (.slti rd rs1 imm) :=
  of_row (show "SLTI" ≠ "NOP.UNKNOWN" by decide) fun _ => ⟨⟨"SLTI", 0x0000707F#32, 0x00002013#32⟩,
    by simp [opcodeRows, immediateRows, registerRows, systemRows], rfl, takes_of ((Format.i_mask _ _ _ _ _).trans (by decide))⟩

theorem sltiu (rd rs1 : RegIx) (imm : BitVec 12) : Statement (.sltiu rd rs1 imm) :=
  of_row (show "SLTIU" ≠ "NOP.UNKNOWN" by decide) fun _ => ⟨⟨"SLTIU", 0x0000707F#32, 0x00003013#32⟩,
    by simp [opcodeRows, immediateRows, registerRows, systemRows], rfl, takes_of ((Format.i_mask _ _ _ _ _).trans (by decide))⟩

theorem xori (rd rs1 : RegIx) (imm : BitVec 12) : Statement (.xori rd rs1 imm) :=
  of_row (show "XORI" ≠ "NOP.UNKNOWN" by decide) fun _ => ⟨⟨"XORI", 0x0000707F#32, 0x00004013#32⟩,
    by simp [opcodeRows, immediateRows, registerRows, systemRows], rfl, takes_of ((Format.i_mask _ _ _ _ _).trans (by decide))⟩

theorem ori (rd rs1 : RegIx) (imm : BitVec 12) : Statement (.ori rd rs1 imm) :=
  of_row (show "ORI" ≠ "NOP.UNKNOWN" by decide) fun _ => ⟨⟨"ORI", 0x0000707F#32, 0x00006013#32⟩,
    by simp [opcodeRows, immediateRows, registerRows, systemRows], rfl, takes_of ((Format.i_mask _ _ _ _ _).trans (by decide))⟩

theorem andi (rd rs1 : RegIx) (imm : BitVec 12) : Statement (.andi rd rs1 imm) :=
  of_row (show "ANDI" ≠ "NOP.UNKNOWN" by decide) fun _ => ⟨⟨"ANDI", 0x0000707F#32, 0x00007013#32⟩,
    by simp [opcodeRows, immediateRows, registerRows, systemRows], rfl, takes_of ((Format.i_mask _ _ _ _ _).trans (by decide))⟩

theorem slli (rd rs1 : RegIx) (shamt : BitVec 5) (hi : BitVec 7) : Statement (.slli rd rs1 shamt hi) :=
  of_row (show "SLLI" ≠ "NOP.UNKNOWN" by decide) fun _ => ⟨⟨"SLLI", 0x0000707F#32, 0x00001013#32⟩,
    by simp [opcodeRows, immediateRows, registerRows, systemRows], rfl, takes_of ((Format.r_shiftMask _ _ _ _ _ _).trans (by decide))⟩

theorem srli (rd rs1 : RegIx) (shamt : BitVec 5) (hi : BitVec 6) : Statement (.srli rd rs1 shamt hi) :=
  of_row (show "SRLI" ≠ "NOP.UNKNOWN" by decide) fun _ => ⟨⟨"SRLI", 0x4000707F#32, 0x00005013#32⟩,
    by simp [opcodeRows, immediateRows, registerRows, systemRows], rfl, takes_of ((Format.shift_mask _ _ _ _ _ _ _).trans (by decide))⟩

theorem srai (rd rs1 : RegIx) (shamt : BitVec 5) (hi : BitVec 6) : Statement (.srai rd rs1 shamt hi) :=
  of_row (show "SRAI" ≠ "NOP.UNKNOWN" by decide) fun _ => ⟨⟨"SRAI", 0x4000707F#32, 0x40005013#32⟩,
    by simp [opcodeRows, immediateRows, registerRows, systemRows], rfl, takes_of ((Format.shift_mask _ _ _ _ _ _ _).trans (by decide))⟩

theorem add (rd rs1 rs2 : RegIx) : Statement (.add rd rs1 rs2) :=
  of_row (show "ADD" ≠ "NOP.UNKNOWN" by decide) fun _ => ⟨⟨"ADD", 0xFE00707F#32, 0x00000033#32⟩,
    by simp [opcodeRows, immediateRows, registerRows, systemRows], rfl, takes_of ((Format.r_mask _ _ _ _ _ _).trans (by decide))⟩

theorem sub (rd rs1 rs2 : RegIx) : Statement (.sub rd rs1 rs2) :=
  of_row (show "SUB" ≠ "NOP.UNKNOWN" by decide) fun _ => ⟨⟨"SUB", 0xFE00707F#32, 0x40000033#32⟩,
    by simp [opcodeRows, immediateRows, registerRows, systemRows], rfl, takes_of ((Format.r_mask _ _ _ _ _ _).trans (by decide))⟩

theorem sll (rd rs1 rs2 : RegIx) : Statement (.sll rd rs1 rs2) :=
  of_row (show "SLL" ≠ "NOP.UNKNOWN" by decide) fun _ => ⟨⟨"SLL", 0xFE00707F#32, 0x00001033#32⟩,
    by simp [opcodeRows, immediateRows, registerRows, systemRows], rfl, takes_of ((Format.r_mask _ _ _ _ _ _).trans (by decide))⟩

theorem slt (rd rs1 rs2 : RegIx) : Statement (.slt rd rs1 rs2) :=
  of_row (show "SLT" ≠ "NOP.UNKNOWN" by decide) fun _ => ⟨⟨"SLT", 0xFE00707F#32, 0x00002033#32⟩,
    by simp [opcodeRows, immediateRows, registerRows, systemRows], rfl, takes_of ((Format.r_mask _ _ _ _ _ _).trans (by decide))⟩

theorem sltu (rd rs1 rs2 : RegIx) : Statement (.sltu rd rs1 rs2) :=
  of_row (show "SLTU" ≠ "NOP.UNKNOWN" by decide) fun _ => ⟨⟨"SLTU", 0xFE00707F#32, 0x00003033#32⟩,
    by simp [opcodeRows, immediateRows, registerRows, systemRows], rfl, takes_of ((Format.r_mask _ _ _ _ _ _).trans (by decide))⟩

theorem xor (rd rs1 rs2 : RegIx) : Statement (.xor rd rs1 rs2) :=
  of_row (show "XOR" ≠ "NOP.UNKNOWN" by decide) fun _ => ⟨⟨"XOR", 0xFE00707F#32, 0x00004033#32⟩,
    by simp [opcodeRows, immediateRows, registerRows, systemRows], rfl, takes_of ((Format.r_mask _ _ _ _ _ _).trans (by decide))⟩

theorem srl (rd rs1 rs2 : RegIx) : Statement (.srl rd rs1 rs2) :=
  of_row (show "SRL" ≠ "NOP.UNKNOWN" by decide) fun _ => ⟨⟨"SRL", 0xFE00707F#32, 0x00005033#32⟩,
    by simp [opcodeRows, immediateRows, registerRows, systemRows], rfl, takes_of ((Format.r_mask _ _ _ _ _ _).trans (by decide))⟩

theorem sra (rd rs1 rs2 : RegIx) : Statement (.sra rd rs1 rs2) :=
  of_row (show "SRA" ≠ "NOP.UNKNOWN" by decide) fun _ => ⟨⟨"SRA", 0xFE00707F#32, 0x40005033#32⟩,
    by simp [opcodeRows, immediateRows, registerRows, systemRows], rfl, takes_of ((Format.r_mask _ _ _ _ _ _).trans (by decide))⟩

theorem or (rd rs1 rs2 : RegIx) : Statement (.or rd rs1 rs2) :=
  of_row (show "OR" ≠ "NOP.UNKNOWN" by decide) fun _ => ⟨⟨"OR", 0xFE00707F#32, 0x00006033#32⟩,
    by simp [opcodeRows, immediateRows, registerRows, systemRows], rfl, takes_of ((Format.r_mask _ _ _ _ _ _).trans (by decide))⟩

theorem and (rd rs1 rs2 : RegIx) : Statement (.and rd rs1 rs2) :=
  of_row (show "AND" ≠ "NOP.UNKNOWN" by decide) fun _ => ⟨⟨"AND", 0xFE00707F#32, 0x00007033#32⟩,
    by simp [opcodeRows, immediateRows, registerRows, systemRows], rfl, takes_of ((Format.r_mask _ _ _ _ _ _).trans (by decide))⟩

theorem fadd (rd rs1 rs2 : RegIx) (f3 : BitVec 3) : Statement (.fadd rd rs1 rs2 f3) :=
  of_row (show "FADD" ≠ "NOP.UNKNOWN" by decide) fun c => ⟨floatRow "FADD" c.fadd,
    by simp [opcodeRows, floatRows], rfl, takes_of (Format.r_float c.fadd f3 rs2 rs1 rd)⟩

theorem fsub (rd rs1 rs2 : RegIx) (f3 : BitVec 3) : Statement (.fsub rd rs1 rs2 f3) :=
  of_row (show "FSUB" ≠ "NOP.UNKNOWN" by decide) fun c => ⟨floatRow "FSUB" c.fsub,
    by simp [opcodeRows, floatRows], rfl, takes_of (Format.r_float c.fsub f3 rs2 rs1 rd)⟩

theorem fmul (rd rs1 rs2 : RegIx) (f3 : BitVec 3) : Statement (.fmul rd rs1 rs2 f3) :=
  of_row (show "FMUL" ≠ "NOP.UNKNOWN" by decide) fun c => ⟨floatRow "FMUL" c.fmul,
    by simp [opcodeRows, floatRows], rfl, takes_of (Format.r_float c.fmul f3 rs2 rs1 rd)⟩

theorem fdiv (rd rs1 rs2 : RegIx) (f3 : BitVec 3) : Statement (.fdiv rd rs1 rs2 f3) :=
  of_row (show "FDIV" ≠ "NOP.UNKNOWN" by decide) fun c => ⟨floatRow "FDIV" c.fdiv,
    by simp [opcodeRows, floatRows], rfl, takes_of (Format.r_float c.fdiv f3 rs2 rs1 rd)⟩

theorem fsqrt (rd rs1 rs2 : RegIx) (f3 : BitVec 3) : Statement (.fsqrt rd rs1 rs2 f3) :=
  of_row (show "FSQRT" ≠ "NOP.UNKNOWN" by decide) fun c => ⟨floatRow "FSQRT" c.fsqrt,
    by simp [opcodeRows, floatRows], rfl, takes_of (Format.r_float c.fsqrt f3 rs2 rs1 rd)⟩

theorem fmin (rd rs1 rs2 : RegIx) (f3 : BitVec 3) : Statement (.fmin rd rs1 rs2 f3) :=
  of_row (show "FMIN" ≠ "NOP.UNKNOWN" by decide) fun c => ⟨floatRow "FMIN" c.fmin,
    by simp [opcodeRows, floatRows], rfl, takes_of (Format.r_float c.fmin f3 rs2 rs1 rd)⟩

theorem fmax (rd rs1 rs2 : RegIx) (f3 : BitVec 3) : Statement (.fmax rd rs1 rs2 f3) :=
  of_row (show "FMAX" ≠ "NOP.UNKNOWN" by decide) fun c => ⟨floatRow "FMAX" c.fmax,
    by simp [opcodeRows, floatRows], rfl, takes_of (Format.r_float c.fmax f3 rs2 rs1 rd)⟩

theorem feq (rd rs1 rs2 : RegIx) (f3 : BitVec 3) : Statement (.feq rd rs1 rs2 f3) :=
  of_row (show "FEQ" ≠ "NOP.UNKNOWN" by decide) fun c => ⟨floatRow "FEQ" c.feq,
    by simp [opcodeRows, floatRows], rfl, takes_of (Format.r_float c.feq f3 rs2 rs1 rd)⟩

theorem flt (rd rs1 rs2 : RegIx) (f3 : BitVec 3) : Statement (.flt rd rs1 rs2 f3) :=
  of_row (show "FLT" ≠ "NOP.UNKNOWN" by decide) fun c => ⟨floatRow "FLT" c.flt,
    by simp [opcodeRows, floatRows], rfl, takes_of (Format.r_float c.flt f3 rs2 rs1 rd)⟩

theorem fle (rd rs1 rs2 : RegIx) (f3 : BitVec 3) : Statement (.fle rd rs1 rs2 f3) :=
  of_row (show "FLE" ≠ "NOP.UNKNOWN" by decide) fun c => ⟨floatRow "FLE" c.fle,
    by simp [opcodeRows, floatRows], rfl, takes_of (Format.r_float c.fle f3 rs2 rs1 rd)⟩

theorem fcvtWS (rd rs1 rs2 : RegIx) (f3 : BitVec 3) : Statement (.fcvtWS rd rs1 rs2 f3) :=
  of_row (show "FCVT.W.S" ≠ "NOP.UNKNOWN" by decide) fun c => ⟨floatRow "FCVT.W.S" c.fcvtWS,
    by simp [opcodeRows, floatRows], rfl, takes_of (Format.r_float c.fcvtWS f3 rs2 rs1 rd)⟩

theorem fcvtSW (rd rs1 rs2 : RegIx) (f3 : BitVec 3) : Statement (.fcvtSW rd rs1 rs2 f3) :=
  of_row (show "FCVT.S.W" ≠ "NOP.UNKNOWN" by decide) fun c => ⟨floatRow "FCVT.S.W" c.fcvtSW,
    by simp [opcodeRows, floatRows], rfl, takes_of (Format.r_float c.fcvtSW f3 rs2 rs1 rd)⟩

theorem fence (rd rs1 : RegIx) (imm : BitVec 12) : Statement (.fence rd rs1 imm) :=
  of_row (show "FENCE" ≠ "NOP.UNKNOWN" by decide) fun _ => ⟨⟨"FENCE", 0x0000707F#32, 0x0000000F#32⟩,
    by simp [opcodeRows, immediateRows, registerRows, systemRows], rfl, takes_of ((Format.i_mask _ _ _ _ _).trans (by decide))⟩

theorem fenceI (rd rs1 : RegIx) (imm : BitVec 12) : Statement (.fenceI rd rs1 imm) :=
  of_row (show "FENCE.I" ≠ "NOP.UNKNOWN" by decide) fun _ => ⟨⟨"FENCE.I", 0x0000707F#32, 0x0000100F#32⟩,
    by simp [opcodeRows, immediateRows, registerRows, systemRows], rfl, takes_of ((Format.i_mask _ _ _ _ _).trans (by decide))⟩

theorem ecall : Statement .ecall :=
  of_row (show "ECALL" ≠ "NOP.UNKNOWN" by decide) fun _ => ⟨⟨"ECALL", 0xFFFFFFFF#32, 0x00000073#32⟩,
    by simp [opcodeRows, immediateRows, registerRows, systemRows], rfl, takes_of (show (0x00000073#32 &&& 0xFFFFFFFF#32 : Word) = 0x00000073#32 by decide)⟩

theorem ebreak : Statement .ebreak :=
  of_row (show "EBREAK" ≠ "NOP.UNKNOWN" by decide) fun _ => ⟨⟨"EBREAK", 0xFFFFFFFF#32, 0x00100073#32⟩,
    by simp [opcodeRows, immediateRows, registerRows, systemRows], rfl, takes_of (show (0x00100073#32 &&& 0xFFFFFFFF#32 : Word) = 0x00100073#32 by decide)⟩

theorem csrrw (rd rs1 : RegIx) (csr : BitVec 12) : Statement (.csrrw rd rs1 csr) :=
  of_row (show "CSRRW" ≠ "NOP.UNKNOWN" by decide) fun _ => ⟨⟨"CSRRW", 0x0000707F#32, 0x00001073#32⟩,
    by simp [opcodeRows, immediateRows, registerRows, systemRows], rfl, takes_of ((Format.i_mask _ _ _ _ _).trans (by decide))⟩

theorem csrrs (rd rs1 : RegIx) (csr : BitVec 12) : Statement (.csrrs rd rs1 csr) :=
  of_row (show "CSRRS" ≠ "NOP.UNKNOWN" by decide) fun _ => ⟨⟨"CSRRS", 0x0000707F#32, 0x00002073#32⟩,
    by simp [opcodeRows, immediateRows, registerRows, systemRows], rfl, takes_of ((Format.i_mask _ _ _ _ _).trans (by decide))⟩

theorem csrrc (rd rs1 : RegIx) (csr : BitVec 12) : Statement (.csrrc rd rs1 csr) :=
  of_row (show "CSRRC" ≠ "NOP.UNKNOWN" by decide) fun _ => ⟨⟨"CSRRC", 0x0000707F#32, 0x00003073#32⟩,
    by simp [opcodeRows, immediateRows, registerRows, systemRows], rfl, takes_of ((Format.i_mask _ _ _ _ _).trans (by decide))⟩

theorem csrrwi (rd uimm : RegIx) (csr : BitVec 12) : Statement (.csrrwi rd uimm csr) :=
  of_row (show "CSRRWI" ≠ "NOP.UNKNOWN" by decide) fun _ => ⟨⟨"CSRRWI", 0x0000707F#32, 0x00005073#32⟩,
    by simp [opcodeRows, immediateRows, registerRows, systemRows], rfl, takes_of ((Format.i_mask _ _ _ _ _).trans (by decide))⟩

theorem csrrsi (rd uimm : RegIx) (csr : BitVec 12) : Statement (.csrrsi rd uimm csr) :=
  of_row (show "CSRRSI" ≠ "NOP.UNKNOWN" by decide) fun _ => ⟨⟨"CSRRSI", 0x0000707F#32, 0x00006073#32⟩,
    by simp [opcodeRows, immediateRows, registerRows, systemRows], rfl, takes_of ((Format.i_mask _ _ _ _ _).trans (by decide))⟩

theorem csrrci (rd uimm : RegIx) (csr : BitVec 12) : Statement (.csrrci rd uimm csr) :=
  of_row (show "CSRRCI" ≠ "NOP.UNKNOWN" by decide) fun _ => ⟨⟨"CSRRCI", 0x0000707F#32, 0x00007073#32⟩,
    by simp [opcodeRows, immediateRows, registerRows, systemRows], rfl, takes_of ((Format.i_mask _ _ _ _ _).trans (by decide))⟩

theorem unknown (w : Word) : Statement (.unknown w) := by
  intro c h
  simpa [Instr.mnemonic, Instr.wf, encode] using h

end Sys2Proof.Laws.EncodedRow
end

