-- ==== Sys2Proof/Laws/Scheduler.lean ====
section
/-! SUPPORT. What a step can do, once: every way it can answer a next state. -/

namespace Sys2Proof.Machine

/-! ### One access event of a unit that runs side by side with others -/

theorem loadEvent_ok {cfg : Config} {c c' : Ctx} {a : Word} {n : Size} {part : Part} {k k' : Nat} {p : Progress}
    (h : loadEvent cfg c a n part k = .ok (p, c', k')) :
    c' = c ∨ (memRead cfg c a n = .ok (n.trunc (Config.freeWord c.free), c') ∧ c' = { c with free := c.free + 1 }) := by
  unfold loadEvent at h
  split at h
  · cases h; exact .inl rfl
  · split at h
    · cases h; exact .inl rfl
    · split at h
      · next v c'' hm =>
        cases h
        rcases memRead_ok hm with ⟨-, -, e⟩ | ⟨-, hv, e⟩
        · exact .inl e
        · exact .inr ⟨by rw [hm, hv], e⟩
      · cases h

/-- A store event leaves everything, issues the pixel transaction, or stores one piece to plain memory. -/
theorem storeEvent_ok {cfg : Config} {c c' : Ctx} {a : Word} {n : Size} {v : Word} {part : Part} {k k' : Nat} {p : Progress}
    (h : storeEvent cfg c a n v part k = .ok (p, c', k')) :
    c' = c ∨ (writeKind cfg a.toNat n = .pixel ∧ c' = { c with vm := c.vm.issuePixel (pixelStore cfg a.toNat v) }) ∨
      ∃ a' n' v', c' = { c with vm := c.vm.storeMem a' n' v' } := by
  have piece : ∀ todo i j, (storePiece c a.toNat v todo i j).2 = c ∨
      ∃ a' n' v', (storePiece c a.toNat v todo i j).2 = { c with vm := c.vm.storeMem a' n' v' } := by
    intro todo i j
    unfold storePiece
    split
    split
    · exact .inl rfl
    · exact .inr ⟨_, _, _, rfl⟩
  unfold storeEvent at h
  split at h
  · cases h; exact .inr (.inr ⟨_, _, _, rfl⟩)
  · cases h; rcases piece _ _ _ with e | e
    · exact .inl e
    · exact .inr (.inr e)
  · split at h
    · cases h; rcases piece _ _ _ with e | e
      · exact .inl e
      · exact .inr (.inr e)
    · split at h
      · next c'' hw =>
        cases h
        rcases memWrite_ok hw with ⟨-, e⟩ | ⟨hk, e⟩
        · exact .inr (.inr ⟨_, _, _, e⟩)
        · exact .inr (.inl ⟨hk, e⟩)
      · cases h

/-- A choice changes nothing but the number of the next free choice. -/
theorem accessEvent_choose {cfg : Config} {c c' : Ctx} {part : Part} {k k' : Nat} {p : Progress}
    (h : accessEvent cfg .choose c part k = .ok (p, c', k')) :
    c' = c ∧ k' = k + 1 ∧ p = .complete (BitVec.ofNat 32 (Config.schedule k)) := by cases h; exact ⟨rfl, rfl, rfl⟩

/-- An access event that is neither part of a load or store nor a choice is the whole access. -/
theorem accessEvent_whole {cfg : Config} {e : Event} {c c' : Ctx} {part : Part} {k k' : Nat} {p : Progress}
    (h : accessEvent cfg e c part k = .ok (p, c', k')) (hl : ∀ a n, e ≠ .load a n) (hs : ∀ a n v, e ≠ .store a n v)
    (hc : e ≠ .choose) : ∃ v, e.perform cfg c = .ok (v, c') ∧ p = .complete v ∧ k' = k := by
  cases e
  case load a n => exact absurd rfl (hl a n)
  case store a n v => exact absurd rfl (hs a n v)
  case choose => exact absurd rfl hc
  all_goals
    simp only [accessEvent] at h
    split at h
    · next v c'' hp => cases h; exact ⟨v, hp, rfl, rfl⟩
    · cases h

theorem accessEvent_kept {cfg : Config} {e : Event} {c c' : Ctx} {part : Part} {k k' : Nat} {p : Progress}
    (h : accessEvent cfg e c part k = .ok (p, c', k')) : c.Kept c' := by
  by_cases hl : ∃ a n, e = .load a n
  · obtain ⟨a, n, rfl⟩ := hl
    rcases loadEvent_ok h with rfl | ⟨-, rfl⟩
    · exact .refl _
    · exact ⟨rfl, rfl, rfl, rfl, id, .inl rfl⟩
  · by_cases hs : ∃ a n v, e = .store a n v
    · obtain ⟨a, n, v, rfl⟩ := hs
      rcases storeEvent_ok h with rfl | ⟨-, rfl⟩ | ⟨_, _, _, rfl⟩
      · exact .refl _
      · exact ⟨rfl, rfl, rfl, rfl, id, .inl rfl⟩
      · exact ⟨rfl, rfl, rfl, rfl, id, .inl rfl⟩
    · by_cases hc : e = .choose
      · subst hc; rw [(accessEvent_choose h).1]; exact .refl _
      · push Not at hl hs
        obtain ⟨v, hp, -, -⟩ := accessEvent_whole h hl hs hc
        exact e.perform_kept hp

/-- An access event keeps the canonical form of memory. -/
theorem accessEvent_wf {cfg : Config} {e : Event} {c c' : Ctx} {part : Part} {k k' : Nat} {p : Progress}
    (h : accessEvent cfg e c part k = .ok (p, c', k')) (hw : c.vm.mem.wf = true) : c'.vm.mem.wf = true := by
  by_cases hl : ∃ a n, e = .load a n
  · obtain ⟨a, n, rfl⟩ := hl
    rcases loadEvent_ok h with rfl | ⟨-, rfl⟩ <;> exact hw
  · by_cases hs : ∃ a n v, e = .store a n v
    · obtain ⟨a, n, v, rfl⟩ := hs
      rcases storeEvent_ok h with rfl | ⟨-, rfl⟩ | ⟨_, _, _, rfl⟩
      · exact hw
      · exact hw
      · exact Memory.wf_store hw _ _ _
    · by_cases hc : e = .choose
      · subst hc; rw [(accessEvent_choose h).1]; exact hw
      · push Not at hl hs
        obtain ⟨v, hp, -, -⟩ := accessEvent_whole h hl hs hc
        exact e.perform_wf hp hw

/-! ### One step of one unit -/

/-- What is fetched as an instruction is the word there, and the configuration decodes it. -/
theorem fetchInstr_ok {cfg : Config} {vm : VM} {ia w : Word} :
    fetchInstr cfg vm ia = .ok w ↔ fetchWord cfg vm ia = .ok w ∧ decodable cfg w = true := by
  unfold fetchInstr
  cases fetchWord cfg vm ia with
  | error r => simp
  | ok v =>
    simp only [Except.ok.injEq]
    split
    · next h => constructor
                · intro e; cases e; exact ⟨rfl, h⟩
                · rintro ⟨rfl, -⟩; rfl
    · next h => constructor
                · intro e; cases e
                · rintro ⟨rfl, h'⟩; exact absurd h' h

/-- What an access step of a unit can do: end the instruction, or perform one event. -/
theorem accessStep_cases {cfg : Config} {c c' : Ctx} {n n' u : Nat} (h : accessStep cfg c n u = .next (c', n')) :
    (∃ next stop, (c.vm.unit u).rest cfg = .ret next stop ∧ n' = n ∧
      c' = { c with vm := c.vm.setUnit u { c.vm.unit u with phase := .commit, next := next, stop := stop } }) ∨
    (∃ e k v d, (c.vm.unit u).rest cfg = .op e k ∧ accessEvent cfg e c (c.vm.unit u).part n = .ok (.complete v, d, n') ∧
      c' = { d with vm := d.vm.setUnit u { c.vm.unit u with got := (c.vm.unit u).got ++ [v], part := .none } }) ∨
    (∃ e k p d, (c.vm.unit u).rest cfg = .op e k ∧ accessEvent cfg e c (c.vm.unit u).part n = .ok (.partly p, d, n') ∧
      c' = { d with vm := d.vm.setUnit u { c.vm.unit u with part := p } }) := by
  unfold accessStep at h
  simp only at h
  split at h
  · next next stop hr => cases h; exact .inl ⟨next, stop, hr, rfl, rfl⟩
  · next e k hr =>
    split at h
    · cases h
    · next v d n'' ha => cases h; exact .inr (.inl ⟨e, k, v, d, hr, ha, rfl⟩)
    · next p d n'' ha => cases h; exact .inr (.inr ⟨e, k, p, d, hr, ha, rfl⟩)

/-- No step of a unit changes the VM's id or which unit moves. -/
theorem unitStep_vmId {cfg : Config} {c c' : Ctx} {n n' u : Nat} (h : unitStep cfg c n u = .next (c', n')) :
    c'.vmId = c.vmId := by
  unfold unitStep at h
  simp only at h
  split at h
  case h_3 =>
    unfold lockedStep at h
    simp only at h
    split at h
    · cases h; rfl
    · cases h; rfl
  case h_4 =>
    unfold fetchStep at h
    simp only at h
    split at h
    · cases h
    · cases h; rfl
  case h_5 =>
    rcases accessStep_cases h with ⟨_, _, _, _, rfl⟩ | ⟨_, _, _, d, _, ha, rfl⟩ | ⟨_, _, _, d, _, ha, rfl⟩
    · rfl
    · exact (accessEvent_kept ha).vmId
    · exact (accessEvent_kept ha).vmId
  all_goals cases h; rfl

/-- What one step of a unit does to its VM: each line of the loop of R313, with what holds when it is taken. `x` is the
unit before. In `access`, `d` is the VM after the access event itself. -/
inductive UnitMove (cfg : Config) (vm : VM) (x : ExecUnit) (u : Nat) : VM → Prop where
  | begins (hp : x.phase = .top) (hb : vm.mayBegin = true) :
      UnitMove cfg vm x u (vm.setUnit u { x with phase := .acquire, retries := 0 })
  | ends (hp : x.phase = .top) (hb : vm.mayBegin = false) : UnitMove cfg vm x u (vm.setUnit u { x with phase := .left })
  | takesLock (hp : x.phase = .acquire) (hl : vm.tick.lock = false) :
      UnitMove cfg vm x u ((vm.setLock true).setUnit u { x with phase := .locked })
  | waits (hp : x.phase = .acquire) (hl : vm.tick.lock = true) (hr : x.retries + 1 ≤ cfg.lockRetries) :
      UnitMove cfg vm x u (vm.setUnit u { x with retries := x.retries + 1 })
  | abandons (hp : x.phase = .acquire) (hl : vm.tick.lock = true) (hr : cfg.lockRetries < x.retries + 1) :
      UnitMove cfg vm x u (vm.setUnit u { x with phase := .left, retries := x.retries + 1 })
  | sentinel (hp : x.phase = .locked) (hpc : vm.cpu.pc = cfg.haltPc) :
      UnitMove cfg vm x u ((vm.setLock false).raiseHalt.setUnit u { x with phase := .left })
  | claims (hp : x.phase = .locked) (hpc : vm.cpu.pc ≠ cfg.haltPc) :
      UnitMove cfg vm x u
        (((vm.setPc (vm.cpu.pc + 4#32)).setLock false).setUnit u { x with phase := .fetch, ia := vm.cpu.pc })
  | fetches (w : Word) (hp : x.phase = .fetch) (hw : fetchWord cfg vm x.ia = .ok w) :
      UnitMove cfg vm x u (vm.setUnit u { x with phase := .run, word := w, got := [], part := .none })
  | returns (next : Word) (stop : Bool) (hp : x.phase = .run) (hr : x.rest cfg = .ret next stop) :
      UnitMove cfg vm x u (vm.setUnit u { x with phase := .commit, next := next, stop := stop })
  | completes (e : Event) (k : Word → Act) (c d : Ctx) (n n' : Nat) (v : Word) (hp : x.phase = .run) (hc : c.vm = vm)
      (hr : x.rest cfg = .op e k) (ha : accessEvent cfg e c x.part n = .ok (.complete v, d, n')) :
      UnitMove cfg vm x u (d.vm.setUnit u { x with got := x.got ++ [v], part := .none })
  | advances (e : Event) (k : Word → Act) (c d : Ctx) (n n' : Nat) (p : Part) (hp : x.phase = .run) (hc : c.vm = vm)
      (hr : x.rest cfg = .op e k) (ha : accessEvent cfg e c x.part n = .ok (.partly p, d, n')) :
      UnitMove cfg vm x u (d.vm.setUnit u { x with part := p })
  | commits (hp : x.phase = .commit) : UnitMove cfg vm x u ((vm.commitNext cfg u).setUnit u { x with phase := .count })
  | counts (hp : x.phase = .count) : UnitMove cfg vm x u (vm.countOne.setUnit u { x with phase := .profile })
  | profiles (hp : x.phase = .profile) : UnitMove cfg vm x u ((vm.profRecord x.ia).setUnit u { x with phase := .guard })
  | aborts (hp : x.phase = .guard) (hg : vm.guardFires = true) :
      UnitMove cfg vm x u
        (({ vm with tick := { vm.tick with abortFlag := true } } : VM).setUnit u { x with phase := .left })
  | stops (hp : x.phase = .guard) (hg : vm.guardFires = false) (hs : x.stop = true) :
      UnitMove cfg vm x u (vm.setUnit u { x with phase := .left })
  | repeats (hp : x.phase = .guard) (hg : vm.guardFires = false) (hs : x.stop = false) :
      UnitMove cfg vm x u (vm.setUnit u { x with phase := .top })
  | gone (hp : x.phase = .left) : UnitMove cfg vm x u vm

/-- A step of a unit is one of those moves. -/
theorem unitStep_move {cfg : Config} {c c' : Ctx} {n n' u : Nat} (h : unitStep cfg c n u = .next (c', n')) :
    UnitMove cfg c.vm (c.vm.unit u) u c'.vm := by
  unfold unitStep at h
  simp only at h
  split at h
  case h_1 hp =>
    cases h
    simp only
    split
    · next hb => exact .begins hp hb
    · next hb => exact .ends hp (by simpa using hb)
  case h_2 hp =>
    cases h
    simp only [VM.attemptLock]
    split
    · next hl =>
      split
      · next hr => exact .abandons hp hl hr
      · next hr => exact .waits hp hl (by omega)
    · next hl => exact .takesLock hp (by simpa using hl)
  case h_3 hp =>
    unfold lockedStep at h
    simp only at h
    split at h
    · next hpc => cases h; exact .sentinel hp hpc
    · next hpc => cases h; exact .claims hp hpc
  case h_4 hp =>
    unfold fetchStep at h
    simp only at h
    split at h
    · cases h
    · next w hw => cases h; exact .fetches w hp (fetchInstr_ok.1 hw).1
  case h_5 hp =>
    rcases accessStep_cases h with ⟨next, stop, hr, -, rfl⟩ | ⟨e, k, v, d, hr, ha, rfl⟩ | ⟨e, k, p, d, hr, ha, rfl⟩
    · exact .returns next stop hp hr
    · exact .completes e k c d n n' v hp rfl hr ha
    · exact .advances e k c d n n' p hp rfl hr ha
  case h_6 hp =>
    cases h
    have : (c.vm.commitNext cfg u).unit u = c.vm.unit u := by unfold VM.commitNext; split <;> rfl
    simp only [VM.goto, this]
    exact .commits hp
  case h_7 hp => cases h; exact .counts hp
  case h_8 hp => cases h; exact .profiles hp
  case h_9 hp =>
    cases h
    simp only [VM.endIteration]
    split
    · next hg => exact .aborts hp hg
    · next hg =>
      split
      · next hs => exact .stops hp (by simpa using hg) hs
      · next hs => exact .repeats hp (by simpa using hg) (by simpa using hs)
  case h_10 hp => cases h; exact .gone hp

/-! ### Counting units -/

theorem VM.unit_mem (vm : VM) {u : Nat} (h : u < vm.tick.units.length) : vm.unit u ∈ vm.tick.units := by
  simp [VM.unit, h]

/-- How a count changes when one unit is replaced. -/
theorem VM.countUnits_setUnit (vm : VM) {u : Nat} (hu : u < vm.tick.units.length) (x : ExecUnit) (p : Phase → Bool) :
    (vm.setUnit u x).countUnits p + (if p (vm.unit u).phase then 1 else 0)
      = vm.countUnits p + (if p x.phase then 1 else 0) := by
  have hle : (if p (vm.unit u).phase then 1 else 0) ≤ vm.countUnits p := by
    split
    · next h => exact List.countP_pos_iff.2 ⟨_, vm.unit_mem hu, h⟩
    · exact Nat.zero_le _
  have e : vm.unit u = vm.tick.units[u] := by simp [VM.unit, hu]
  rw [e] at hle ⊢
  simp only [VM.countUnits, VM.setUnit_units, List.countP_set hu] at hle ⊢
  omega

theorem VM.countUnits_congr {vm vm' : VM} (h : vm'.tick.units = vm.tick.units) (p : Phase → Bool) :
    vm'.countUnits p = vm.countUnits p := by simp [VM.countUnits, h]

theorem Ctx.Kept.units {c c' : Ctx} (h : c.Kept c') : c'.vm.tick.units = c.vm.tick.units := by rw [h.tick]

theorem Ctx.Kept.unit {c c' : Ctx} (h : c.Kept c') (u : Nat) : c'.vm.unit u = c.vm.unit u := by
  simp [VM.unit, h.units]

/-! ### The steps of the machine -/

theorem VM.mem_liveUnits (vm : VM) (u : Nat) :
    u ∈ vm.liveUnits ↔ u < vm.tick.units.length ∧ (vm.unit u).phase ≠ .left := by
  simp [VM.liveUnits]

/-- What an iteration of the only unit can do. -/
theorem iterate_cases {s t : State} (h : iterate s = .next t) :
    ((s.vm.mayBegin = false ∨ s.vm.tick.lock = true) ∧ t = s.withVm (s.vm.goto 0 .left)) ∨
    (s.vm.mayBegin = true ∧ s.vm.tick.lock = false ∧ s.vm.cpu.pc = s.cfg.haltPc ∧
      t = s.withVm (s.vm.raiseHalt.goto 0 .left)) ∨
    (s.vm.mayBegin = true ∧ s.vm.tick.lock = false ∧ s.vm.cpu.pc ≠ s.cfg.haltPc ∧
      ∃ w r, fetchWord s.cfg s.vm s.vm.cpu.pc = .ok w ∧ exec (decodeWord s.cfg.fpCodes w) s.claim = .next r ∧
        t = r.finish) := by
  unfold iterate at h
  simp only at h
  split at h
  · next hc =>
    cases h
    refine .inl ⟨?_, rfl⟩
    simpa using hc
  · next hc =>
    simp only [Bool.or_eq_true, Bool.not_eq_true', not_or, Bool.not_eq_false, Bool.not_eq_true] at hc
    split at h
    · next hp => cases h; exact .inr (.inl ⟨hc.1, hc.2, hp, rfl⟩)
    · next hp =>
      unfold runInstruction at h
      split at h
      · cases h
      · next w hw =>
        split at h
        · next r hr => cases h; exact .inr (.inr ⟨hc.1, hc.2, hp, w, r, (fetchInstr_ok.1 hw).1, hr, rfl⟩)
        · cases h
        · cases h

/-- A PC that a tick may have, said in words. -/
theorem legalPc_iff {cfg : Config} {pc : Word} : legalPc cfg pc = true ↔ pc.toNat % 4 = 0 ∨ pc = cfg.haltPc := by
  simp [legalPc]

/-- While a tick runs with a PC that no tick may have there is no step (R202, U5). -/
theorem step_illegalPc {s : State} (hr : s.running = true) (hp : legalPc s.cfg s.vm.cpu.pc = false) :
    step s = .fault .misalignedPc := by simp [step, tickStep, hr, hp]

/-- While a tick runs a step starts from a PC that is a multiple of 4, or HALT_PC (R202). -/
theorem step_legalPc {s t : State} (hr : s.running = true) (h : step s = .next t) :
    s.vm.cpu.pc.toNat % 4 = 0 ∨ s.vm.cpu.pc = s.cfg.haltPc := by
  rw [← legalPc_iff]
  by_contra hp
  rw [step_illegalPc hr (by simpa using hp)] at h
  cases h

/-- Everything a step can do when it answers a next state: nothing to do for the host, an operation of the host, the
end of a tick, an iteration of a single-unit tick, a step of one unit of a multi-unit tick. -/
theorem step_cases {s t : State} (h : step s = .next t) :
    (s.running = false ∧ s.hostIn = [] ∧ t = s) ∨
    (s.running = false ∧ ∃ op rest, s.hostIn = op :: rest ∧ hostOp { s with hostIn := rest } op = .next t) ∨
    (s.running = true ∧ t = s.endTick ∧
      ((s.cfg.nUnits = 1 ∧ ∀ x xs, s.vm.tick.units = x :: xs → x.phase = .left) ∨
        (s.cfg.nUnits ≠ 1 ∧ s.vm.liveUnits = []))) ∨
    (s.running = true ∧ s.cfg.nUnits = 1 ∧ (∃ x xs, s.vm.tick.units = x :: xs ∧ x.phase ≠ .left) ∧ iterate s = .next t) ∨
    (s.running = true ∧ s.cfg.nUnits ≠ 1 ∧ ∃ u c n, u < s.vm.tick.units.length ∧ (s.vm.unit u).phase ≠ .left ∧
      unitStep s.cfg s.ctx s.sched u = .next (c, n) ∧
      t = { s.withCtx { c with vm := c.vm.setTurn (Config.schedule n) } with sched := n + 1 }) := by
  unfold step at h
  rcases Bool.eq_false_or_eq_true s.running with hr | hr
  rotate_left
  · simp only [hr, Bool.false_eq_true, if_false] at h
    unfold hostStep at h
    split at h
    · next hi => cases h; exact .inl ⟨hr, hi, rfl⟩
    · next op rest hi => exact .inr (.inl ⟨hr, op, rest, hi, h⟩)
  · simp only [hr, if_true] at h
    unfold tickStep at h
    split at h
    · cases h
    split at h
    · next hn =>
      unfold singleStep at h
      split at h
      · next hu =>
        cases h
        exact .inr (.inr (.inl ⟨hr, rfl, .inl ⟨hn, by simp [hu]⟩⟩))
      · next x xs hu =>
        split at h
        · next hx =>
          cases h
          refine .inr (.inr (.inl ⟨hr, rfl, .inl ⟨hn, ?_⟩⟩))
          intro y ys hy
          rw [hu] at hy; cases hy; exact hx
        · next hx => exact .inr (.inr (.inr (.inl ⟨hr, hn, ⟨x, xs, hu, hx⟩, h⟩)))
    · next hn =>
      unfold multiStep at h
      split at h
      · next hl => cases h; exact .inr (.inr (.inl ⟨hr, rfl, .inr ⟨hn, hl⟩⟩))
      · next hl =>
        split at h
        · next c n hu =>
          cases h
          have hlen : 0 < s.vm.liveUnits.length := by
            rcases hs : s.vm.liveUnits with _ | ⟨a, l⟩
            · exact absurd hs (by simpa using hl)
            · simp
          have hm := Nat.mod_lt s.vm.tick.turn hlen
          have hmem : s.vm.liveUnits.getD (s.vm.tick.turn % s.vm.liveUnits.length) 0 ∈ s.vm.liveUnits := by
            rw [List.getD_eq_getElem _ _ hm]; exact List.getElem_mem hm
          have := (s.vm.mem_liveUnits _).1 hmem
          exact .inr (.inr (.inr (.inr ⟨hr, hn, _, c, n, this.1, this.2, hu, rfl⟩)))
        · cases h
        · cases h

end Sys2Proof.Machine
end

