-- ==== Sys2Proof/Tests/Slice0.lean ====
section
/-! SUPPORT. The model's own tests. Expected values are the spec's: spec/95_test_vectors.md parts A, B and C and the
rules named; none was computed with the model. Then one witness for every obligation that has hypotheses. -/

namespace Sys2Proof.Tests

set_option Elab.async false

open Sys2Proof.Machine

/-! ### Well-formedness: each check refuses an ill-formed term -/

/-- R107: a jump offset has bit 0 clear. -/
theorem test_wf_refuses_odd_jump : (Instr.jal 1#5 9#21).wf FpCodes.default = false := by decide +kernel

/-- R105: a branch offset has bit 0 clear, in each of the six. -/
theorem test_wf_refuses_odd_branches :
    ([Instr.beq 1#5 2#5 3#13, .bne 1#5 2#5 3#13, .blt 1#5 2#5 3#13, .bge 1#5 2#5 3#13, .bltu 1#5 2#5 3#13,
      .bgeu 1#5 2#5 0x1FFF#13].any (Instr.wf FpCodes.default)) = false := by decide +kernel

/-- R118: an unknown word is one that no row takes; this one is ADDI x0, x0, 0. -/
theorem test_wf_refuses_known_word : (Instr.unknown 0x00000013#32).wf FpCodes.default = false := by decide +kernel

/-- The even offsets and a word of no row are accepted. -/
theorem test_wf_accepts :
    ([Instr.jal 1#5 0x1FFFFE#21, .beq 1#5 2#5 0x1000#13, .unknown 0x40001033#32].all (Instr.wf FpCodes.default)) = true := by
  decide +kernel

/-- R113: codes that repeat, or that are 0x00 or 0x20, are refused. -/
theorem test_codes_refused :
    FpCodes.ok { FpCodes.default with fle := 0x01#7 } = false ∧
    FpCodes.ok { FpCodes.default with fle := 0x00#7 } = false ∧
    FpCodes.ok { FpCodes.default with fle := 0x20#7 } = false := by decide +kernel

/-! ### Decoding: words written out from the spec's encodings (R101 to R118; hexadecimal words of 95) -/

/-- R109, R102 U: imm20, rd, opcode. -/
theorem test_decode_upper :
    decodeWord FpCodes.default 0b00010010001101000101_00101_0110111#32 = .lui 5#5 0x12345#20 ∧
    decodeWord FpCodes.default 0b11111111111111111111_00101_0010111#32 = .auipc 5#5 0xFFFFF#20 := by decide +kernel

/-- R102 J and I: JAL x0,-8; JAL x1,2048 (bit 11 is inst[20]); JALR x1,x5,-4. -/
theorem test_decode_jumps :
    decodeWord FpCodes.default 0b1_1111111100_1_11111111_00000_1101111#32 = .jal 0#5 0x1FFFF8#21 ∧
    decodeWord FpCodes.default 0x001000EF#32 = .jal 1#5 2048#21 ∧
    decodeWord FpCodes.default 0b111111111100_00101_000_00001_1100111#32 = .jalr 1#5 5#5 0xFFC#12 := by decide +kernel

/-- R102 B, R115: BNE x1,x0,-8; BNE x1,x2,2048 (bit 11 is inst[7]); the others with offset 16. -/
theorem test_decode_branches :
    decodeWord FpCodes.default 0b1_111111_00000_00001_001_1100_1_1100011#32 = .bne 1#5 0#5 0x1FF8#13 ∧
    decodeWord FpCodes.default 0x002090E3#32 = .bne 1#5 2#5 2048#13 ∧
    decodeWord FpCodes.default 0x00208863#32 = .beq 1#5 2#5 16#13 ∧
    decodeWord FpCodes.default 0x0020C863#32 = .blt 1#5 2#5 16#13 ∧
    decodeWord FpCodes.default 0x0020D863#32 = .bge 1#5 2#5 16#13 ∧
    decodeWord FpCodes.default 0x0020E863#32 = .bltu 1#5 2#5 16#13 ∧
    decodeWord FpCodes.default 0x0020F863#32 = .bgeu 1#5 2#5 16#13 := by decide +kernel

/-- R102 I, R114: LB, LH, LW, LBU, LHU x6,8(x5); LW x6,-4(x5). -/
theorem test_decode_loads :
    decodeWord FpCodes.default 0b000000001000_00101_000_00110_0000011#32 = .lb 6#5 5#5 8#12 ∧
    decodeWord FpCodes.default 0x00829303#32 = .lh 6#5 5#5 8#12 ∧
    decodeWord FpCodes.default 0x0082A303#32 = .lw 6#5 5#5 8#12 ∧
    decodeWord FpCodes.default 0x0082C303#32 = .lbu 6#5 5#5 8#12 ∧
    decodeWord FpCodes.default 0x0082D303#32 = .lhu 6#5 5#5 8#12 ∧
    decodeWord FpCodes.default 0xFFC2A303#32 = .lw 6#5 5#5 0xFFC#12 := by decide +kernel

/-- R102 S, R114: SB, SH x6,8(x5); SW x6,-4(x5); SW x31,2047(x31). -/
theorem test_decode_stores :
    decodeWord FpCodes.default 0x00628423#32 = .sb 6#5 5#5 8#12 ∧
    decodeWord FpCodes.default 0x00629423#32 = .sh 6#5 5#5 8#12 ∧
    decodeWord FpCodes.default 0b1111111_00110_00101_010_11100_0100011#32 = .sw 6#5 5#5 0xFFC#12 ∧
    decodeWord FpCodes.default 0x7FFFAFA3#32 = .sw 31#5 31#5 0x7FF#12 := by decide +kernel

/-- R102 I, R111: shifts are told apart by bit 30 alone. -/
theorem test_decode_op_imm :
    decodeWord FpCodes.default 0b111111111111_00001_000_00011_0010011#32 = .addi 3#5 1#5 0xFFF#12 ∧
    decodeWord FpCodes.default 0xFFF0A193#32 = .slti 3#5 1#5 0xFFF#12 ∧
    decodeWord FpCodes.default 0xFFF0B193#32 = .sltiu 3#5 1#5 0xFFF#12 ∧
    decodeWord FpCodes.default 0xFFF0C193#32 = .xori 3#5 1#5 0xFFF#12 ∧
    decodeWord FpCodes.default 0x0F00E193#32 = .ori 3#5 1#5 0x0F0#12 ∧
    decodeWord FpCodes.default 0xFF00F193#32 = .andi 3#5 1#5 0xFF0#12 ∧
    decodeWord FpCodes.default 0x01F09193#32 = .slli 3#5 1#5 31#5 0#7 ∧
    decodeWord FpCodes.default 0x0040D193#32 = .srli 3#5 1#5 4#5 0#6 ∧
    decodeWord FpCodes.default 0xBE40D193#32 = .srli 3#5 1#5 4#5 0x3F#6 ∧
    decodeWord FpCodes.default 0x4040D193#32 = .srai 3#5 1#5 4#5 0#6 ∧
    decodeWord FpCodes.default 0xFE40D193#32 = .srai 3#5 1#5 4#5 0x3F#6 := by decide +kernel

/-- R102 R, R112. -/
theorem test_decode_op :
    decodeWord FpCodes.default 0b0000000_00010_00001_000_00011_0110011#32 = .add 3#5 1#5 2#5 ∧
    decodeWord FpCodes.default 0x402081B3#32 = .sub 3#5 1#5 2#5 ∧
    decodeWord FpCodes.default 0x002091B3#32 = .sll 3#5 1#5 2#5 ∧
    decodeWord FpCodes.default 0x0020A1B3#32 = .slt 3#5 1#5 2#5 ∧
    decodeWord FpCodes.default 0x0020B1B3#32 = .sltu 3#5 1#5 2#5 ∧
    decodeWord FpCodes.default 0x0020C1B3#32 = .xor 3#5 1#5 2#5 ∧
    decodeWord FpCodes.default 0x0020D1B3#32 = .srl 3#5 1#5 2#5 ∧
    decodeWord FpCodes.default 0x4020D1B3#32 = .sra 3#5 1#5 2#5 ∧
    decodeWord FpCodes.default 0x0020E1B3#32 = .or 3#5 1#5 2#5 ∧
    decodeWord FpCodes.default 0x0020F1B3#32 = .and 3#5 1#5 2#5 := by decide +kernel

/-- R112, R113: the twelve codes in order; funct3 is ignored. -/
theorem test_decode_float :
    decodeWord FpCodes.default 0b0000001_00010_00001_000_00011_0110011#32 = .fadd 3#5 1#5 2#5 0#3 ∧
    decodeWord FpCodes.default 0x0220F1B3#32 = .fadd 3#5 1#5 2#5 7#3 ∧
    decodeWord FpCodes.default 0x042081B3#32 = .fsub 3#5 1#5 2#5 0#3 ∧
    decodeWord FpCodes.default 0x062081B3#32 = .fmul 3#5 1#5 2#5 0#3 ∧
    decodeWord FpCodes.default 0x082081B3#32 = .fdiv 3#5 1#5 2#5 0#3 ∧
    decodeWord FpCodes.default 0x0A0081B3#32 = .fsqrt 3#5 1#5 0#5 0#3 ∧
    decodeWord FpCodes.default 0x0C2081B3#32 = .fmin 3#5 1#5 2#5 0#3 ∧
    decodeWord FpCodes.default 0x0E2081B3#32 = .fmax 3#5 1#5 2#5 0#3 ∧
    decodeWord FpCodes.default 0x102081B3#32 = .feq 3#5 1#5 2#5 0#3 ∧
    decodeWord FpCodes.default 0x122081B3#32 = .flt 3#5 1#5 2#5 0#3 ∧
    decodeWord FpCodes.default 0x142081B3#32 = .fle 3#5 1#5 2#5 0#3 ∧
    decodeWord FpCodes.default 0x160081B3#32 = .fcvtWS 3#5 1#5 0#5 0#3 ∧
    decodeWord FpCodes.default 0x180081B3#32 = .fcvtSW 3#5 1#5 0#5 0#3 := by decide +kernel

/-- R116, R117. -/
theorem test_decode_misc_and_system :
    decodeWord FpCodes.default 0x0FF0000F#32 = .fence 0#5 0#5 0x0FF#12 ∧
    decodeWord FpCodes.default 0x0000100F#32 = .fenceI 0#5 0#5 0#12 ∧
    decodeWord FpCodes.default 0b000000000000_00000_000_00000_1110011#32 = .ecall ∧
    decodeWord FpCodes.default 0x00100073#32 = .ebreak ∧
    decodeWord FpCodes.default 0xC00012F3#32 = .csrrw 5#5 0#5 0xC00#12 ∧
    decodeWord FpCodes.default 0xC00022F3#32 = .csrrs 5#5 0#5 0xC00#12 ∧
    decodeWord FpCodes.default 0x300332F3#32 = .csrrc 5#5 6#5 0x300#12 ∧
    decodeWord FpCodes.default 0x300452F3#32 = .csrrwi 5#5 8#5 0x300#12 ∧
    decodeWord FpCodes.default 0x300462F3#32 = .csrrsi 5#5 8#5 0x300#12 ∧
    decodeWord FpCodes.default 0x300472F3#32 = .csrrci 5#5 8#5 0x300#12 := by decide +kernel

/-- R118 and vector A13: words of no row, the RISC-V WFI and MRET among them, are NOP.UNKNOWN. -/
theorem test_decode_unknown :
    ([0x00000000#32, 0xFFFFFFFF#32, 0x00000005#32, 0x40001033#32, 0x0000007F#32, 0x10500073#32, 0x30200073#32].map
      (decodeWord FpCodes.default)) =
    [.unknown 0x00000000#32, .unknown 0xFFFFFFFF#32, .unknown 0x00000005#32, .unknown 0x40001033#32,
     .unknown 0x0000007F#32, .unknown 0x10500073#32, .unknown 0x30200073#32] := by decide +kernel

/-- R100: the first byte is the least significant; fewer than four bytes are no instruction. -/
theorem test_decode_bytes :
    decodeBytes FpCodes.default [0xB3#8, 0x81#8, 0x20#8, 0x00#8, 0x13#8] = .ok (.add 3#5 1#5 2#5, [0x13#8]) ∧
    decodeBytes FpCodes.default [0xB3#8, 0x81#8, 0x20#8] = .error .truncated ∧
    decodeTableWord 32 0x002081B3 = some (.add 3#5 1#5 2#5) := by decide +kernel

/-! ### One step -/

/-- A single-unit tick of the machine after reset, about to fetch at `pc`, with `w` there. -/
def placed (pc : Word) (w : Nat) : State :=
  let s := State.reset.startSingle
  (s.withVm (s.vm.setPc pc)).withFetchWord 32 w

/-- The same with registers set. -/
def withRegs (s : State) (l : List (RegIx × Word)) : State := l.foldl (fun s x => s.setReg x.1 x.2) s

/-- The next state, if there is one. -/
def nextOf {α : Type} : Host.Outcome α Fault Refusal → Option α
  | .next t => some t
  | .fault _ => none
  | .refused _ => none

/-- The refusal, if it is one. -/
def refusalOf {α : Type} : Host.Outcome α Fault Refusal → Option Refusal
  | .refused r => some r
  | .fault _ => none
  | .next _ => none

/-- The fault, if it is one. -/
def faultOf {α : Type} : Host.Outcome α Fault Refusal → Option Fault
  | .fault f => some f
  | .next _ => none
  | .refused _ => none

/-- A next state is seen by `nextOf`. -/
theorem next_of_isSome {α : Type} {o : Host.Outcome α Fault Refusal} (h : (nextOf o).isSome = true) : ∃ t, o = .next t := by
  cases o with
  | next t => exact ⟨t, rfl⟩
  | fault f => simp [nextOf] at h
  | refused r => simp [nextOf] at h

/-- x3 after a step at 0x100 with x1 = a, x2 = b. -/
def x3After (w : Nat) (a b : Word) : Option Word :=
  (nextOf (step (withRegs (placed 0x100#32 w) [(1#5, a), (2#5, b)]))).map (fun t => t.reg 3#5)

/-- The PC after the same step. -/
def pcAfter (w : Nat) (a b : Word) : Option Word :=
  (nextOf (step (withRegs (placed 0x100#32 w) [(1#5, a), (2#5, b)]))).map (fun t => t.vm.cpu.pc)

/-- 95 B1 -/
theorem test_add :
    x3After 0x002081B3 0xFFFFFFFF#32 0x00000001#32 = some 0x00000000#32 ∧
    x3After 0x002081B3 0x7FFFFFFF#32 0x00000001#32 = some 0x80000000#32 := by decide +kernel

/-- 95 B1 -/
theorem test_sub :
    x3After 0x402081B3 0x00000000#32 0x00000001#32 = some 0xFFFFFFFF#32 ∧
    x3After 0x402081B3 0x80000000#32 0x00000001#32 = some 0x7FFFFFFF#32 := by decide +kernel

/-- 95 B1 -/
theorem test_sll :
    x3After 0x002091B3 0x00000001#32 0x00000020#32 = some 0x00000001#32 ∧
    x3After 0x002091B3 0xFFFFFFFF#32 0x00000021#32 = some 0xFFFFFFFE#32 := by decide +kernel

/-- 95 B1 -/
theorem test_srl :
    x3After 0x0020D1B3 0x80000000#32 0x0000001F#32 = some 0x00000001#32 ∧
    x3After 0x0020D1B3 0x80000000#32 0x00000020#32 = some 0x80000000#32 := by decide +kernel

/-- 95 B1 -/
theorem test_sra :
    x3After 0x4020D1B3 0x80000000#32 0x0000001F#32 = some 0xFFFFFFFF#32 ∧
    x3After 0x4020D1B3 0x7FFFFFFF#32 0x00000004#32 = some 0x07FFFFFF#32 := by decide +kernel

/-- 95 B1 -/
theorem test_slt :
    x3After 0x0020A1B3 0xFFFFFFFF#32 0x00000001#32 = some 0x00000001#32 ∧
    x3After 0x0020A1B3 0x80000000#32 0x7FFFFFFF#32 = some 0x00000001#32 := by decide +kernel

/-- 95 B1 -/
theorem test_sltu :
    x3After 0x0020B1B3 0xFFFFFFFF#32 0x00000001#32 = some 0x00000000#32 ∧
    x3After 0x0020B1B3 0x00000000#32 0x00000001#32 = some 0x00000001#32 := by decide +kernel

/-- 95 B1 -/
theorem test_xor :
    x3After 0x0020C1B3 0xFF00FF00#32 0x0FF00FF0#32 = some 0xF0F0F0F0#32 := by decide +kernel

/-- 95 B1 -/
theorem test_or :
    x3After 0x0020E1B3 0xFF00FF00#32 0x0FF00FF0#32 = some 0xFFF0FFF0#32 := by decide +kernel

/-- 95 B1 -/
theorem test_and :
    x3After 0x0020F1B3 0xFF00FF00#32 0x0FF00FF0#32 = some 0x0F000F00#32 := by decide +kernel

/-- 95 B2 -/
theorem test_addi :
    x3After 0x7FF08193 0x7FFFFFFF#32 0x00000000#32 = some 0x800007FE#32 := by decide +kernel

/-- 95 B2 -/
theorem test_slti :
    x3After 0xFFF0A193 0xFFFFFFFE#32 0x00000000#32 = some 0x00000001#32 ∧
    x3After 0xFFF0A193 0x00000000#32 0x00000000#32 = some 0x00000000#32 := by decide +kernel

/-- 95 B2 -/
theorem test_sltiu :
    x3After 0xFFF0B193 0x00000000#32 0x00000000#32 = some 0x00000001#32 ∧
    x3After 0xFFF0B193 0xFFFFFFFF#32 0x00000000#32 = some 0x00000000#32 := by decide +kernel

/-- 95 B2 -/
theorem test_xori :
    x3After 0xFFF0C193 0x12345678#32 0x00000000#32 = some 0xEDCBA987#32 := by decide +kernel

/-- 95 B2 -/
theorem test_ori :
    x3After 0x0F00E193 0x0000000F#32 0x00000000#32 = some 0x000000FF#32 := by decide +kernel

/-- 95 B2 -/
theorem test_andi :
    x3After 0xFF00F193 0x12345678#32 0x00000000#32 = some 0x12345670#32 := by decide +kernel

/-- 95 B2 -/
theorem test_slli :
    x3After 0x00409193 0xF0000001#32 0x00000000#32 = some 0x00000010#32 := by decide +kernel

/-- 95 B2 and A4 -/
theorem test_srli :
    x3After 0xBE40D193 0xF0000001#32 0x00000000#32 = some 0x0F000000#32 := by decide +kernel

/-- 95 B2 and A4 -/
theorem test_srai :
    x3After 0xFE40D193 0xF0000001#32 0x00000000#32 = some 0xFF000000#32 := by decide +kernel

/-- 95 B2: LUI and AUIPC into x5 at 0x100. -/
theorem test_upper :
    (nextOf (step (placed 0x100#32 0xFFFFF2B7))).map (fun t => t.reg 5#5) = some 0xFFFFF000#32 ∧
    (nextOf (step (placed 0x100#32 0xFFFFF297))).map (fun t => t.reg 5#5) = some 0xFFFFF100#32 := by decide +kernel

/-- 95 A2 and B1: x0 is not written, a source may be the destination. -/
theorem test_x0_and_same_register :
    (nextOf (step (placed 0x100#32 0x12345037))).map (fun t => (t.reg 0#5, t.byte 1)) = some (0#32, 0#8) ∧
    (nextOf (step (withRegs (placed 0x100#32 0x001080B3) [(1#5, 0x40000000#32)]))).map (fun t => t.reg 1#5) =
      some 0x80000000#32 := by decide +kernel

/-- 95 B3 -/
theorem test_beq :
    pcAfter 0x00208863 0x00000005#32 0x00000005#32 = some 0x00000110#32 ∧
    pcAfter 0x00208863 0xFFFFFFFF#32 0x00000001#32 = some 0x00000104#32 := by decide +kernel

/-- 95 B3 -/
theorem test_bne :
    pcAfter 0x00209863 0x00000005#32 0x00000005#32 = some 0x00000104#32 ∧
    pcAfter 0x00209863 0xFFFFFFFF#32 0x00000001#32 = some 0x00000110#32 := by decide +kernel

/-- 95 B3 -/
theorem test_blt :
    pcAfter 0x0020C863 0xFFFFFFFF#32 0x00000001#32 = some 0x00000110#32 ∧
    pcAfter 0x0020C863 0x00000001#32 0xFFFFFFFF#32 = some 0x00000104#32 := by decide +kernel

/-- 95 B3 -/
theorem test_bge :
    pcAfter 0x0020D863 0x00000005#32 0x00000005#32 = some 0x00000110#32 ∧
    pcAfter 0x0020D863 0x00000001#32 0xFFFFFFFF#32 = some 0x00000110#32 := by decide +kernel

/-- 95 B3 -/
theorem test_bltu :
    pcAfter 0x0020E863 0xFFFFFFFF#32 0x00000001#32 = some 0x00000104#32 ∧
    pcAfter 0x0020E863 0x00000001#32 0xFFFFFFFF#32 = some 0x00000110#32 := by decide +kernel

/-- 95 B3 -/
theorem test_bgeu :
    pcAfter 0x0020F863 0x00000005#32 0x00000005#32 = some 0x00000110#32 ∧
    pcAfter 0x0020F863 0x00000001#32 0xFFFFFFFF#32 = some 0x00000104#32 := by decide +kernel

/-- 95 B3: JAL x0,-8 at 0x110; JAL x1,2048 at 0x100. -/
theorem test_jal :
    (nextOf (step (placed 0x110#32 0xFF9FF06F))).map (fun t => (t.vm.cpu.pc, t.reg 0#5)) = some (0x108#32, 0#32) ∧
    (nextOf (step (placed 0x100#32 0x001000EF))).map (fun t => (t.vm.cpu.pc, t.reg 1#5)) = some (0x900#32, 0x104#32) := by
  decide +kernel

/-- 95 B3: bit 0 of the target is cleared; the source may be the link register. -/
theorem test_jalr :
    (nextOf (step (withRegs (placed 0x100#32 0x004280E7) [(5#5, 0x201#32)]))).map (fun t => (t.vm.cpu.pc, t.reg 1#5)) =
      some (0x204#32, 0x104#32) ∧
    (nextOf (step (withRegs (placed 0x100#32 0x000080E7) [(1#5, 0x200#32)]))).map (fun t => (t.vm.cpu.pc, t.reg 1#5)) =
      some (0x200#32, 0x104#32) := by decide +kernel

/-- 95 B4: the bytes 80 FF 7F 01 AA at 0x208, x5 = 0x200; x6 after. -/
def x6Loaded (w : Nat) : Option Word :=
  let s := withRegs (placed 0x100#32 w) [(5#5, 0x200#32)]
  (nextOf (step (s.withVm ((s.vm.storeMem 0x208 .word 0x017FFF80#32).storeMem 0x20C .byte 0xAA#32)))).map
    (fun t => t.reg 6#5)

/-- 95 B4 -/
theorem test_lb : x6Loaded 0x00828303 = some 0xFFFFFF80#32 ∧ x6Loaded 0x00A28303 = some 0x0000007F#32 := by decide +kernel

/-- 95 B4 -/
theorem test_lbu : x6Loaded 0x0082C303 = some 0x00000080#32 := by decide +kernel

/-- 95 B4 -/
theorem test_lh : x6Loaded 0x00829303 = some 0xFFFFFF80#32 ∧ x6Loaded 0x00929303 = some 0x00007FFF#32 := by decide +kernel

/-- 95 B4 -/
theorem test_lhu : x6Loaded 0x0082D303 = some 0x0000FF80#32 := by decide +kernel

/-- 95 B4 -/
theorem test_lw : x6Loaded 0x0082A303 = some 0x017FFF80#32 ∧ x6Loaded 0x0092A303 = some 0xAA017FFF#32 := by decide +kernel

/-- 95 B4: the words at 0x208 and 0x20C after a store of x6 = 0xA1B2C3D4, every byte 0x11 before, x5 = 0x200. -/
def stored (w : Nat) : Option (Word × Word) :=
  let s := withRegs (placed 0x100#32 w) [(5#5, 0x200#32), (6#5, 0xA1B2C3D4#32)]
  (nextOf (step (s.withVm ((s.vm.storeMem 0x208 .word 0x11111111#32).storeMem 0x20C .word 0x11111111#32)))).map
    (fun t => (t.vm.mem.load 0x208 .word, t.vm.mem.load 0x20C .word))

/-- 95 B4 -/
theorem test_sb : stored 0x00628423 = some (0x111111D4#32, 0x11111111#32) := by
  decide +kernel

/-- 95 B4 -/
theorem test_sh : stored 0x00629423 = some (0x1111C3D4#32, 0x11111111#32) ∧ stored 0x006295A3 = some (0xD4111111#32, 0x111111C3#32) := by
  decide +kernel

/-- 95 B4 -/
theorem test_sw : stored 0x0062A423 = some (0xA1B2C3D4#32, 0x11111111#32) ∧ stored 0x0062A4A3 = some (0xB2C3D411#32, 0x111111A1#32) := by
  decide +kernel

/-- 95 B4, R66, R70: a store at 4 writes x1; a word store at the window's base is the bottom left pixel (program P8);
a window load is a draw; a byte store into the window is refused. -/
theorem test_alias_and_window :
    (nextOf (step (withRegs (placed 0x100#32 0x00502223) [(5#5, 0x123#32)]))).map (fun t => t.reg 1#5) = some 0x123#32 ∧
    (nextOf (step (withRegs (placed 0x100#32 0x0020A023) [(1#5, 0x8000#32), (2#5, 0xFF0000FF#32)]))).map
      (fun t => (t.vm.pixels, t.byte 0x8000)) = some ([⟨0, 15, 0xFF0000FF#32⟩], 0#8) ∧
    (nextOf (step (withRegs (placed 0x100#32 0x0002A303) [(5#5, 0x8000#32)]))).map (fun t => t.free) = some 1 ∧
    refusalOf (step (withRegs (placed 0x100#32 0x00628023) [(5#5, 0x8000#32)])) = some .windowStore := by decide +kernel

/-- 95 B5 -/
theorem test_fadd :
    x3After 0x022081B3 0x3F800000#32 0x33800000#32 = some 0x3F800000#32 ∧
    x3After 0x022081B3 0x00800000#32 0x80000001#32 = some 0x007FFFFF#32 := by decide +kernel

/-- 95 B5 -/
theorem test_fsub :
    x3After 0x042081B3 0x3F800000#32 0x3F800000#32 = some 0x00000000#32 ∧
    x3After 0x042081B3 0x7F800000#32 0x7F800000#32 = some 0x7FC00000#32 := by decide +kernel

/-- 95 B5 -/
theorem test_fmul :
    x3After 0x062081B3 0x00000003#32 0x3F000000#32 = some 0x00000002#32 ∧
    x3After 0x062081B3 0xC0000000#32 0x00000000#32 = some 0x80000000#32 := by decide +kernel

/-- 95 B5 -/
theorem test_fdiv :
    x3After 0x082081B3 0x3F800000#32 0x40400000#32 = some 0x3EAAAAAB#32 ∧
    x3After 0x082081B3 0x3F800000#32 0x80000000#32 = some 0xFF800000#32 := by decide +kernel

/-- 95 B5 -/
theorem test_fsqrt :
    x3After 0x0A0081B3 0x40000000#32 0x00000000#32 = some 0x3FB504F3#32 ∧
    x3After 0x0A0081B3 0x00000001#32 0x00000000#32 = some 0x1A3504F3#32 := by decide +kernel

/-- 95 B5 -/
theorem test_fmin :
    x3After 0x0C2081B3 0x00000000#32 0x80000000#32 = some 0x80000000#32 ∧
    x3After 0x0C2081B3 0x7FC00000#32 0x40A00000#32 = some 0x40A00000#32 := by decide +kernel

/-- 95 B5 -/
theorem test_fmax :
    x3After 0x0E2081B3 0x80000000#32 0x00000000#32 = some 0x00000000#32 ∧
    x3After 0x0E2081B3 0x40A00000#32 0x7F800001#32 = some 0x40A00000#32 := by decide +kernel

/-- 95 B5 -/
theorem test_feq :
    x3After 0x102081B3 0x00000000#32 0x80000000#32 = some 0x00000001#32 ∧
    x3After 0x102081B3 0x7FC00000#32 0x7FC00000#32 = some 0x00000000#32 := by decide +kernel

/-- 95 B5 -/
theorem test_flt :
    x3After 0x122081B3 0xBF800000#32 0x3F800000#32 = some 0x00000001#32 ∧
    x3After 0x122081B3 0x7FC00000#32 0x3F800000#32 = some 0x00000000#32 := by decide +kernel

/-- 95 B5 -/
theorem test_fle :
    x3After 0x142081B3 0x3F800000#32 0x3F800000#32 = some 0x00000001#32 ∧
    x3After 0x142081B3 0x3F800000#32 0xBF800000#32 = some 0x00000000#32 := by decide +kernel

/-- 95 B5 -/
theorem test_fcvt_w_s :
    x3After 0x160081B3 0xC0300000#32 0x00000000#32 = some 0xFFFFFFFE#32 ∧
    x3After 0x160081B3 0xCF000000#32 0x00000000#32 = some 0x80000000#32 := by decide +kernel

/-- 95 B5 -/
theorem test_fcvt_s_w :
    x3After 0x180081B3 0xFEFFFFFD#32 0x00000000#32 = some 0xCB800001#32 ∧
    x3After 0x180081B3 0x7FFFFFFF#32 0x00000000#32 = some 0x4EFFFFFF#32 := by decide +kernel

/-- R248: the zero FMIN answers of +0 and -0 is a parameter. -/
theorem test_fmin_zero_is_a_parameter :
    ([ZeroPick.negative, .positive, .first, .second].map fun p =>
      Fp.min { Config.default with fminZero := p } 0#32 0x80000000#32) =
      [0x80000000#32, 0#32, 0#32, 0x80000000#32] := by decide +kernel

/-- R64 case 2, R67: with FB_WIDTH = 0 there is no window, and a misaligned store across MMIO_BASE is plain. -/
theorem test_empty_window :
    let s := withRegs (placed 0x100#32 0x0062A023) [(5#5, 0x7FFE#32), (6#5, 0xA1B2C3D4#32)]
    (nextOf (step { s with cfg := { s.cfg with fbWidth := 0 } })).map (fun t => t.vm.mem.load 0x7FFE .word) =
      some 0xA1B2C3D4#32 := by decide +kernel

/-- U1: with strict_decode off a word whose decoding depends on the policy is refused, a MISC_MEM word is not. -/
theorem test_strict_decode :
    let loose := fun (w : Nat) =>
      let s := placed 0x100#32 w
      step { s with cfg := { s.cfg with strictDecode := false } }
    refusalOf (loose 0x40001033) = some .looseDecode ∧ refusalOf (loose 0x00001067) = some .looseDecode ∧
    (nextOf (loose 0x0000200F)).map (fun t => t.vm.cpu.pc) = some 0x104#32 := by decide +kernel

/-- 95 B5: 2^31 is out of range; the result is a draw. -/
theorem test_fcvt_w_s_draws :
    (nextOf (step (withRegs (placed 0x100#32 0x160081B3) [(1#5, 0x4F000000#32)]))).map (fun t => t.free) = some 1 := by
  decide +kernel

/-- 95 B6: FENCE, FENCE.I, the CSR forms, WFI, MRET and an unknown word go on at pc + 4 and leave x5. -/
theorem test_no_effect :
    ([0x0FF0000F, 0x0000100F, 0xC00012F3, 0xC00022F3, 0x300332F3, 0x300452F3, 0x300462F3, 0x300472F3, 0x10500073,
      0x30200073, 0x40001033].map (fun w =>
        (nextOf (step (withRegs (placed 0x100#32 w) [(5#5, 7#32)]))).map (fun t => (t.vm.cpu.pc, t.reg 5#5)))) =
      List.replicate 11 (some (0x104#32, 7#32)) := by decide +kernel

/-- 95 B6: EBREAK raises the halt flag; the PC is pc + 4. -/
theorem test_ebreak :
    (nextOf (step (placed 0x100#32 0x00100073))).map (fun t => (t.vm.tick.haltFlag, t.vm.cpu.pc)) =
      some (true, 0x104#32) := by decide +kernel

/-- 95 B6: ECALL number 93 with ring_ctr = 16 overwrites slot 0. -/
theorem test_ecall_queues :
    let s := withRegs (placed 0x100#32 0x00000073)
      [(17#5, 93#32), (10#5, 7#32), (11#5, 0x300#32), (12#5, 5#32)]
    (nextOf (step (s.withVm { s.vm with ringCtr := 16#32 }))).map
      (fun t => (t.vm.ring[0], t.vm.ringCtr, t.vm.vmStatus)) =
    some (⟨0#32, 93#32, 7#32, 0x300#32, 5#32, 0#32, 0#32, 0#32, 0#32⟩, 17#32, .waitingSyscall) := by decide +kernel

/-- R326: the words of a ring slot are written one at a time; after two of them the rest is old. -/
theorem test_slot_is_written_by_words :
    let c := State.reset.ctx
    ((fillSlot 17#32 (.ret 0#32 true) 2 [.put .number 93#32, .put .arg0 7#32]).run Config.default c).toOption.map
      (fun d => (d.ctx.vm.ring[1].number, d.ctx.vm.ring[1].arg0, d.ctx.vm.ring[1].arg1, d.ctx.vm.ring[0].number)) =
    some (93#32, 7#32, 0#32, 0#32) := by decide +kernel

/-- R12, R142: after a choice either source of ADD x3, x1, x2 is the next access. -/
theorem test_either_source_first :
    ([0#32, 1#32].map fun n => { ExecUnit.fresh with word := 0x002081B3#32, got := [n] }.event Config.default) =
      [some (.readReg 1#5), some (.readReg 2#5)] := by decide +kernel

/-- R283, R12: in a queued call any of the nine words can be the first of the slot; here the fourth, x11, is read. -/
theorem test_any_slot_word_first :
    ({ ExecUnit.fresh with word := 0x00000073#32, got := [93#32, 16#32, 3#32] }.event Config.default) =
      some (.readReg 11#5) := by decide +kernel

/-- R202, U5: a jump to 0x102 that uses up the budget completes, and nothing follows, the end of the tick included. -/
theorem test_misaligned_jump_stops :
    let s := placed 0x100#32 0x0020006F
    let last := s.withVm { s.vm with tick := { s.vm.tick with budget := 1#32 } }
    (nextOf (step last)).map (fun t => (t.vm.cpu.pc, t.vm.tick.executed, faultOf (step t))) =
      some (0x102#32, 1, some .misalignedPc) := by decide +kernel

/-- 95 A7: a console write of five bytes with two places left drops three; the VM stays RUNNING. -/
def consoleState : State :=
  let s := withRegs (placed 0x100#32 0x00000073) [(17#5, 64#32), (10#5, 1#32), (11#5, 0x300#32), (12#5, 5#32)]
  s.withVm { (s.vm.storeMem 0x300 .word 0x44434241#32).storeMem 0x304 .byte 0x45#32 with consoleLen := 254 }

theorem test_console_write :
    (nextOf (step consoleState)).map (fun t => (t.vm.consoleText.drop 254, t.vm.consoleLen, t.vm.vmStatus)) =
      some ([0x41#8, 0x42#8], 256, .running) := by decide +kernel

/-! ### Witnesses: for each obligation with hypotheses, states and operands that meet them -/

/-- For DecodeOfEncodeIsIdentity, DecoderFollowsTheOpcodeTable and ImmediatesBitByBit: the default map is legal, an
instruction well formed, a row takes a word, no row takes another, bit 31 is one. -/
theorem witness_decode :
    FpCodes.default.ok = true ∧ (Instr.jal 1#5 0x1FFFFE#21).wf FpCodes.default = true ∧
    (∃ r ∈ opcodeRows FpCodes.default, r.takes 0x00100073#32 = true) ∧
    knownWord FpCodes.default 0xFFFFFFFF#32 = false ∧ 31 < 32 := by decide +kernel

/-- For RegisterPorts, RegisterWriteThenRead and LittleEndian. -/
theorem witness_memory :
    State.reset.vm.mem.wf = true ∧ (31#5 : RegIx) ≠ 0#5 ∧
    fetchWord Config.default State.reset.vm 0xFFFC#32 = .ok 0#32 := by decide +kernel

/-- The fitting accesses of LoadResults and StoreResults, at the edges of memory and of the window, with x1 the address. -/
def fitsAt (s : State) (a : Nat) (n : Size) : Bool :=
  !touchesWindow s.cfg a n && decide (a + n.bytes ≤ s.cfg.memSize)
    && (decide (a % n.bytes = 0) || s.cfg.allowMisaligned)

/-- For LoadResults: the last byte, halfword and word of memory; the last before the window; the first and last byte
of the window, for each width. -/
theorem witness_loads :
    let s := withRegs State.reset [(1#5, 0xFFFC#32)]
    (s.reg 1#5 + (0#12).signExtend 32).toNat = 0xFFFC ∧
    fitsAt s 0xFFFF .byte = true ∧ fitsAt s 0xFFFE .half = true ∧ fitsAt s 0xFFFC .word = true ∧
    fitsAt s 0x7FFF .byte = true ∧ fitsAt s 0x7FFE .half = true ∧ fitsAt s 0x7FFC .word = true ∧
    touchesWindow s.cfg 0x8000 .byte = true ∧ touchesWindow s.cfg 0x83FF .byte = true ∧
    touchesWindow s.cfg 0x7FFF .half = true ∧ touchesWindow s.cfg 0x83FE .half = true ∧
    touchesWindow s.cfg 0x7FFD .word = true ∧ touchesWindow s.cfg 0x83FC .word = true := by decide +kernel

/-- For StoreResults (the fitting forms are those of witness_loads): the first and the last pixel address. -/
theorem witness_pixel_stores :
    let s := withRegs State.reset [(1#5, 0x8000#32), (2#5, 0x83FC#32)]
    (s.reg 1#5 + (0#12).signExtend 32).toNat = s.cfg.mmioBase ∧
    (s.reg 2#5 + (0#12).signExtend 32).toNat + 4 = s.cfg.mmioBase + 4 * s.cfg.fbWidth * s.cfg.fbHeight ∧
    0x8000 % 4 = 0 ∧ 0x83FC % 4 = 0 := by decide +kernel

/-- For WindowCoversTheFramebuffer. -/
theorem witness_window :
    Config.default.mmioBase % 4 = 0 ∧ 0 < Config.default.fbWidth ∧ 0 < Config.default.fbHeight ∧
    isPixelAddress Config.default 0x8000 = true ∧ isPixelAddress Config.default 0x83FC = true ∧
    (15 < Config.default.fbWidth ∧ 15 < Config.default.fbHeight) := by decide +kernel

/-- For AccessesWithoutMeaningAreRefused: one past the end for each width, a misaligned access with allow_misaligned
off, the forbidden stores into the window. -/
theorem witness_refused_accesses :
    let cfg := { Config.default with allowMisaligned := false }
    (∀ x ∈ [(Size.byte, 0x10000), (.half, 0xFFFF), (.word, 0xFFFD)],
      touchesWindow Config.default x.2 x.1 = false ∧ Config.default.memSize < x.2 + x.1.bytes) ∧
    (∀ x ∈ [(Size.half, 1), (.word, 2)],
      touchesWindow cfg x.2 x.1 = false ∧ x.2 + x.1.bytes ≤ cfg.memSize ∧ x.2 % x.1.bytes ≠ 0 ∧
        cfg.allowMisaligned = false) ∧
    (∀ x ∈ [(Size.byte, 0x8000), (.half, 0x83FE), (.word, 0x7FFE), (.word, 0x83FD)],
      touchesWindow Config.default x.2 x.1 = true ∧ (x.1 = .word → isPixelAddress Config.default x.2 = false)) := by
  decide +kernel

/-- For NanRule, ArithmeticSpecialCases, MinMaxRules and ComparisonsOrderValues: a NaN, an infinity, the largest finite
value, a zero, and the smallest subnormal, which is not flushed by default. Every clause's hypotheses on its two operands
are met by two of these. -/
theorem witness_float_classes :
    Fp.isNaN 0x7F800001#32 = true ∧ Fp.isNaN 0xFF800000#32 = false ∧ Fp.isInf 0xFF800000#32 = true ∧
    Fp.isInf 0x7F7FFFFF#32 = false ∧ Fp.isNaN 0x7F7FFFFF#32 = false ∧ Fp.isZero 0x80000000#32 = true ∧
    Fp.isNaN 0x80000000#32 = false ∧ Fp.isInf 0x80000000#32 = false ∧ Fp.isNaN 1#32 = false ∧
    Fp.isZero (Fp.flush Config.default 0xFF800000#32) = false ∧ Fp.isZero (Fp.flush Config.default 1#32) = false ∧ Fp.isNaN (Fp.sqrt Config.default 0xBF800000#32) = true := by
  decide +kernel

/-- For RoundToNearestEven: the tie at halfway past the largest value, and just below it. -/
theorem witness_rounding :
    0 < 1 ∧ (2 ^ 25 - 1) * 2 ^ 253 * 1 ≤ 2 * ((2 ^ 25 - 1) * 2 ^ 252) ∧
    2 * ((2 ^ 25 - 1) * 2 ^ 252 - 1) < (2 ^ 25 - 1) * 2 ^ 253 * 1 := by decide +kernel

/-- For ArithmeticIsCorrectlyRounded: finite operands, a divisor that is not 0, an exact zero sum and difference of values
that are not; the largest value doubled is past the halfway point, the sum of 1 and 2^-24 is below it and a tie. -/
theorem witness_arithmetic :
    let v := Fp.signedUnits
    (Config.default.fpRound = .nearestEven ∧ Config.default.flushSubnormals = false) ∧
    [0x3F800000#32, 0xBF800000#32, 0x33800000#32, 0x7F7FFFFF#32].all (fun x => !Fp.isNaN x && !Fp.isInf x) = true ∧
    (v 0x3F800000#32 ≠ 0 ∧ v 0x3F800000#32 + v 0xBF800000#32 = 0 ∧ v 0x3F800000#32 - v 0x3F800000#32 = 0) ∧
    (2 ^ 25 - 1) * 2 ^ 253 * 1 ≤ 2 * (v 0x7F7FFFFF#32 + v 0x7F7FFFFF#32).natAbs ∧
    2 * (v 0x3F800000#32 + v 0x33800000#32).natAbs < (2 ^ 25 - 1) * 2 ^ 253 * 1 ∧
    (v 0x3F800000#32 * 1 - (v 0x3F800000#32 + v 0x33800000#32)).natAbs =
      (v 0x3F800001#32 * 1 - (v 0x3F800000#32 + v 0x33800000#32)).natAbs ∧ v 0x3F800001#32 ≠ v 0x3F800000#32 := by
  decide +kernel

/-- For SquareRootIsCorrectlyRounded: 2, -1 and -0. -/
theorem witness_square_root :
    let c := Config.default
    (c.fpRound = .nearestEven ∧ c.flushSubnormals = false ∧ Fp.isNaN 0x40000000#32 = false ∧
      Fp.isInf 0x40000000#32 = false ∧ Fp.isZero 0x40000000#32 = false ∧ Fp.sign 0x40000000#32 = false) ∧
    (Fp.isNaN 0xBF800000#32 = false ∧ Fp.isZero (Fp.flush c 0xBF800000#32) = false ∧ Fp.sign 0xBF800000#32 = true) ∧
    Fp.isZero 0x80000000#32 = true := by decide +kernel

/-- For IntegerToFloatTruncates: the largest float below 2^31 is not above 0x7FFFFFFF. -/
theorem witness_integer_to_float :
    Config.default.cvtRound = .towardZero ∧ Fp.isNaN 0x4EFFFFFF#32 = false ∧ Fp.isInf 0x4EFFFFFF#32 = false ∧
    Fp.units 0x4EFFFFFF#32 ≤ (0x7FFFFFFF#32 : Word).toInt.natAbs * 2 ^ 149 := by decide +kernel

/-- For EcallQueues: x17 is 0 after reset. -/
theorem witness_ecall : State.reset.reg 17#5 ≠ 64#32 := by decide +kernel

/-- The state of a console write of `len` bytes from `ptr`. -/
def consoleAt (ptr len : Word) : State := withRegs State.reset [(17#5, 64#32), (10#5, 1#32), (11#5, ptr), (12#5, len)]

/-- For ConsoleWriteResult: bytes up to the end of memory, bytes across the start of the window, a byte past memory, and
the descriptor 0. -/
theorem witness_console :
    let s := consoleAt 0xFFFE#32 2#32
    (s.reg 17#5 = 64#32 ∧ s.vm.console.length = s.cfg.consoleCap ∧ s.vm.consoleLen ≤ s.cfg.consoleCap ∧
      s.reg 10#5 = 1#32 ∧ (s.reg 12#5).toNat = 2) ∧
    ([0xFFFE, 0xFFFF].all fun a => !touchesWindow s.cfg (a % 2 ^ 32) .byte && decide (a % 2 ^ 32 < s.cfg.memSize)) = true ∧
    (touchesWindow s.cfg 0x7FFF .byte = false ∧ touchesWindow s.cfg 0x8000 .byte = true ∧ 0x7FFF < s.cfg.memSize) ∧
    ((consoleAt 0xFFFE#32 3#32).reg 12#5).toNat = 3 ∧
    (touchesWindow s.cfg 0x10000 .byte = false ∧ s.cfg.memSize ≤ 0x10000) ∧
    (s.setReg 10#5 0#32).reg 10#5 ≠ 1#32 := by decide +kernel

/-- A unit of a single-unit tick that has claimed 0x100, with x1 = 0x8000 (the window) and x5 = 0x200. -/
def claimed (w : Nat) : State := (withRegs (placed 0x100#32 w) [(1#5, 0x8000#32), (5#5, 0x200#32)]).claim

/-- For RegisterFormsFrame and OnlyTheseReachOutside: a register form and a load that complete, with a destination. -/
theorem witness_register_forms :
    ((shapeOf (.add 3#5 1#5 2#5) = .register ∧ destOf (.add 3#5 1#5 2#5) = some 3#5) ∧
      destOf (.add 0#5 1#5 2#5) = some 0#5 ∧ destOf (.beq 1#5 2#5 16#13) = none ∧ shapeOf (.lw 6#5 5#5 8#12) = .load ∧ (claimed 0).vm.mem.wf = true) ∧
    (∃ t, exec (.add 3#5 1#5 2#5) (claimed 0) = .next t) ∧ (∃ t, exec (.lw 6#5 5#5 8#12) (claimed 0) = .next t) ∧
    ∃ t, exec (.beq 1#5 2#5 16#13) (claimed 0) = .next t :=
  ⟨by decide +kernel, next_of_isSome (by decide +kernel), next_of_isSome (by decide +kernel),
    next_of_isSome (by decide +kernel)⟩

/-- For StoresFrame: a plain store and a pixel store that complete. -/
theorem witness_stores :
    ((claimed 0).vm.mem.wf = true ∧ writeKind (claimed 0).cfg ((claimed 0).reg 5#5 + sext12 8#12).toNat .half = .plain ∧
      writeKind (claimed 0).cfg ((claimed 0).reg 1#5 + sext12 0#12).toNat .word = .pixel) ∧
    (∃ t, exec (.sh 6#5 5#5 8#12) (claimed 0) = .next t) ∧ ∃ t, exec (.sw 2#5 1#5 0#12) (claimed 0) = .next t :=
  ⟨by decide +kernel, next_of_isSome (by decide +kernel), next_of_isSome (by decide +kernel)⟩

/-- For SystemFrame and OnlyTheseReachOutside: the queued call, the console write and EBREAK complete, the unit that
moves being one of the tick's. -/
theorem witness_system :
    (∃ t, exec .ecall (claimed 0) = .next t) ∧ (claimed 0).reg 17#5 ≠ 64#32 ∧
    (∃ t, exec .ecall consoleState.claim = .next t) ∧ consoleState.claim.reg 17#5 = 64#32 ∧
    (∃ t, exec .ebreak (claimed 0) = .next t) ∧
    (claimed 0).vm.tick.turn < (claimed 0).vm.tick.units.length :=
  ⟨next_of_isSome (by decide +kernel), by decide +kernel, next_of_isSome (by decide +kernel), by decide +kernel,
    next_of_isSome (by decide +kernel), by decide +kernel⟩

/-- The hypotheses of the statements about a single-unit iteration. -/
def ready (s : State) : Bool :=
  s.running && decide (s.cfg.nUnits = 1) && decide (s.vm.tick.units = [ExecUnit.fresh]) && s.vm.mayBegin
    && !s.vm.tick.lock && decide (s.vm.cpu.pc ≠ s.cfg.haltPc) && decide (s.vm.cpu.pc.toNat % 4 = 0)

/-- For StepRunsTheDecodedInstruction and IterationCommitsTheNextAddress: ADD at 0x100. -/
theorem witness_iteration :
    (ready (placed 0x100#32 0x002081B3) = true ∧ ExecUnit.fresh.phase ≠ .left ∧
      fetchWord (placed 0x100#32 0x002081B3).cfg (placed 0x100#32 0x002081B3).vm (placed 0x100#32 0x002081B3).vm.cpu.pc =
        .ok 0x002081B3#32 ∧
      decodeWord (placed 0x100#32 0x002081B3).cfg.fpCodes 0x002081B3#32 = .add 3#5 1#5 2#5) ∧
    (∃ u, exec (.add 3#5 1#5 2#5) (placed 0x100#32 0x002081B3).claim = .next u) ∧
    ∃ t, step (placed 0x100#32 0x002081B3) = .next t :=
  ⟨by decide +kernel, next_of_isSome (by decide +kernel), next_of_isSome (by decide +kernel)⟩

/-- For StepRunsTheDecodedInstruction: the word at 0x100 is inside memory, outside the window and decoded; with strict_decode
off 0x40001033 is not; the window's base and the first address past memory. -/
theorem witness_fetch :
    let s := placed 0x100#32 0x40001033
    let at_ := fun (pc : Word) => s.withVm (s.vm.setPc pc)
    let loose := { s with cfg := { s.cfg with strictDecode := false } }
    (touchesWindow s.cfg 0x100 .word = false ∧ 0x100 + 4 ≤ s.cfg.memSize ∧ decodable s.cfg 0x40001033#32 = true) ∧
    (ready loose = true ∧ decodable loose.cfg (loose.vm.mem.load 0x100 .word) = false) ∧
    (ready (at_ 0x8000#32) = true ∧ touchesWindow s.cfg 0x8000 .word = true) ∧
    (ready (at_ 0x10000#32) = true ∧ touchesWindow s.cfg 0x10000 .word = false ∧ s.cfg.memSize < 0x10000 + 4) ∧
    s.cfg.strictDecode = true := by decide +kernel

/-- For IterationStopsAtTheTop: a used budget, HALT_PC, and a PC of 0x102. -/
theorem witness_iteration_stops :
    let s := placed 0x100#32 0
    let at_ := fun (pc : Word) => s.withVm (s.vm.setPc pc)
    let used := s.withVm { s.vm with tick := { s.vm.tick with budget := 0#32 } }
    ready s = true ∧ (used.vm.tick.units = [ExecUnit.fresh] ∧ used.vm.tick.budget.toNat ≤ used.vm.tick.executed) ∧
    ((at_ 0xFFFFFFFC#32).vm.mayBegin = true ∧ (at_ 0xFFFFFFFC#32).vm.cpu.pc = (at_ 0xFFFFFFFC#32).cfg.haltPc) ∧
    ((at_ 0x102#32).running = true ∧ (at_ 0x102#32).vm.cpu.pc.toNat % 4 ≠ 0 ∧
      (at_ 0x102#32).vm.cpu.pc ≠ (at_ 0x102#32).cfg.haltPc) ∧ used.vm.cpu.pc.toNat % 4 = 0 := by decide +kernel

/-- The machine after reset with one operation of the host pending. -/
def asked (op : HostOp) : State := { State.reset with hostIn := [op] }

/-- The same with VM 2 not RUNNING. -/
def askedWaiting (op : HostOp) : State :=
  let s := asked op
  s.withVmAt 2 { s.vmAt 2 with vmStatus := .waitingSyscall }

/-- For TickStart: 0xFFFFFFFC is HALT_PC, 0xFFFC a multiple of 4, 0xFFFE neither. -/
theorem witness_tick_start :
    let s := asked (.tick 2 5#32 0xFFFE#32)
    s.running = false ∧ s.hostIn = .tick 2 5#32 0xFFFE#32 :: [] ∧ (s.vms[(2 : VmId)]).vmStatus = .running ∧
    ¬ ((0xFFFE#32 : Word).toNat % 4 = 0 ∨ 0xFFFE#32 = s.cfg.haltPc) ∧ (0xFFFC#32 : Word).toNat % 4 = 0 ∧
    0xFFFFFFFC#32 = s.cfg.haltPc := by decide +kernel

/-- For StatusGate: a tick of a waiting VM, and a step of a tick after which the VM is RUNNING. -/
theorem witness_status_gate :
    (let s := askedWaiting (.tick 2 5#32 0#32);
      s.running = false ∧ s.hostIn = .tick 2 5#32 0#32 :: [] ∧ (s.vms[(2 : VmId)]).vmStatus ≠ .running) ∧
    (placed 0x100#32 0x002081B3).running = true ∧
    ∃ t, step (placed 0x100#32 0x002081B3) = .next t ∧ (t.vms[(0 : VmId)]).vmStatus = .running := by
  refine ⟨by decide +kernel, by decide +kernel, (nextOf (step (placed 0x100#32 0x002081B3))).get (by decide +kernel), ?_, ?_⟩
  · obtain ⟨t, h⟩ := next_of_isSome (o := step (placed 0x100#32 0x002081B3)) (by decide +kernel)
    simp only [h, nextOf, Option.get_some]
  · decide +kernel

/-- Two units under way: unit 0 under the lock, unit 1 about to fetch 0x100, which it has claimed. -/
def midVm : VM :=
  let units := [{ ExecUnit.fresh with phase := .locked }, { ExecUnit.fresh with phase := .fetch, ia := 0x100#32 }]
  { VM.reset 256 with
    cpu := { CpuState.reset with pc := 0x104#32 }
    tick := { Tick.reset with lock := true, budget := 4#32, resumePc := 0x100#32, units := units } }

/-- The machine with that tick of VM 0 under way. -/
def midTick : State :=
  { State.reset with cfg := { Config.default with nUnits := 2 }, running := true, vms := State.reset.vms.set 0 midVm }

theorem midTick_vms (v : VmId) : midTick.vms[v] = midVm ∨ midTick.vms[v] = VM.reset 256 := by
  have h : midTick.vms = (Vector.replicate 8 (VM.reset 256)).set 0 midVm := by unfold midTick State.reset; rfl
  rw [h]
  simp only [Fin.getElem_fin, Vector.getElem_set, Vector.getElem_replicate]
  split <;> simp

/-- The end of a tick of two units: both have left, four instructions are counted. -/
def tickOver : State :=
  let left := { ExecUnit.fresh with phase := .left }
  midTick.withVm { midTick.vm with
    cpu := { midTick.vm.cpu with pc := 0x110#32 }
    tick := { midTick.vm.tick with lock := false, executed := 4, units := [left, left] } }

/-- For TickEndReconcilesAndPublishes: in multi-unit mode, with and without the halt flag. -/
theorem witness_tick_end :
    tickOver.running = true ∧ tickOver.cfg.nUnits ≠ 1 ∧ (∀ x ∈ tickOver.vm.tick.units, x.phase = .left) ∧
    tickOver.vm.cpu.pc.toNat % 4 = 0 ∧ tickOver.vm.tick.haltFlag = false ∧ (tickOver.withVm tickOver.vm.raiseHalt).vm.tick.haltFlag = true := by
  decide +kernel

/-- The same for a single unit. -/
theorem witness_tick_end_single :
    let s := placed 0x100#32 0
    let t := s.withVm (s.vm.goto 0 .left)
    t.running = true ∧ t.vm.tick.units.length ≤ 1 ∧ t.vm.cpu.pc.toNat % 4 = 0 ∧ ∀ x ∈ t.vm.tick.units, x.phase = .left := by decide +kernel

/-- For MultiUnitLoop: a live unit in a multi-unit tick, at a PC of 0x104, at HALT_PC and at 0x102. -/
theorem witness_live :
    let at_ := fun (pc : Word) => midTick.withVm (midTick.vm.setPc pc)
    (midTick.running = true ∧ midTick.cfg.nUnits ≠ 1 ∧ 1 < midTick.vm.tick.units.length ∧
      (midTick.vm.unit 1).phase ≠ .left ∧ midTick.vm.cpu.pc.toNat % 4 = 0) ∧
    (at_ 0xFFFFFFFC#32).vm.cpu.pc = (at_ 0xFFFFFFFC#32).cfg.haltPc ∧
    ¬ ((at_ 0x102#32).vm.cpu.pc.toNat % 4 = 0 ∨ (at_ 0x102#32).vm.cpu.pc = (at_ 0x102#32).cfg.haltPc) := by
  decide +kernel

/-- For MultiUnitLoop, the lines at the top and at the lock: a free lock, a held lock, HALT_PC, another PC. -/
theorem witness_lock :
    let c := midTick.ctx
    let waiting : Ctx := { c with vm := c.vm.goto 1 .acquire }
    let unlocked : Ctx := { waiting with vm := waiting.vm.setLock false }
    let at_ := fun (pc : Word) => ({ c with vm := c.vm.setPc pc } : Ctx)
    (((c.vm.goto 1 .top).unit 1).phase = .top ∧ 1 < c.vm.tick.units.length) ∧
    (1 < unlocked.vm.tick.units.length ∧ (unlocked.vm.unit 1).phase = .acquire ∧ unlocked.vm.tick.lock = false) ∧
    ((waiting.vm.unit 1).phase = .acquire ∧ waiting.vm.tick.lock = true) ∧
    (((at_ 0xFFFFFFFC#32).vm.unit 0).phase = .locked ∧ (at_ 0xFFFFFFFC#32).vm.cpu.pc = Config.default.haltPc) ∧
    ((c.vm.unit 0).phase = .locked ∧ c.vm.cpu.pc ≠ Config.default.haltPc) := by
  decide +kernel

/-- For MultiUnitLoop, the other lines: a fetch that succeeds and one past memory, the lines after the instruction, the
guard with twice the budget used and with one more. -/
theorem witness_lines :
    let c := midTick.ctx
    let at_ := fun (p : Phase) => c.vm.goto 1 p
    let counted := fun (k : Nat) => ({ at_ .guard with tick := { (at_ .guard).tick with executed := k } } : VM)
    ((c.vm.unit 1).phase = .fetch ∧ fetchWord Config.default c.vm (c.vm.unit 1).ia = .ok 0#32 ∧
      decodable Config.default 0#32 = true ∧ decodable { Config.default with strictDecode := false } 0x33#32 = true ∧
      decodable { Config.default with strictDecode := false } 0x40001033#32 = false) ∧
    fetchWord Config.default c.vm 0x10000#32 = .error .outOfRange ∧
    ([Phase.commit, .count, .profile].all fun p => decide (((at_ p).unit 1).phase = p)) = true ∧
    (((counted 9).unit 1).phase = .guard ∧ 2 * (counted 9).tick.budget.toNat < (counted 9).tick.executed) ∧
    (((counted 8).unit 1).phase = .guard ∧ (counted 8).tick.executed ≤ 2 * (counted 8).tick.budget.toNat) := by
  decide +kernel

/-- For AccessEventsAloneGiveTheInstruction: SH x6,11(x5), misaligned, by unit 1. -/
def shortStore : Ctx :=
  let c := midTick.ctx
  { c with vm := c.vm.setUnit 1 { ExecUnit.fresh with phase := .run, word := 0x006295A3#32, ia := 0x100#32 } }

/-- For MultiUnitLoop, the line of the accesses: the first of two sources is chosen, then read; an instruction without effect
has ended. -/
theorem witness_run :
    (shortStore.vm.unit 1).phase = .run ∧ (∃ k, (shortStore.vm.unit 1).rest Config.default = .op .choose k) ∧
    (∃ k, ({ shortStore.vm.unit 1 with got := [0#32] } : ExecUnit).rest Config.default = .op (.readReg 5#5) k) ∧
    ({ shortStore.vm.unit 1 with word := 0x0FF0000F#32 } : ExecUnit).rest Config.default = .ret 0x104#32 false :=
  ⟨rfl, ⟨_, rfl⟩, ⟨_, rfl⟩, rfl⟩

theorem witness_access_events :
    (shortStore.vm.mem.wf = true ∧ 1 < shortStore.vm.tick.units.length ∧ (shortStore.vm.unit 1).phase = .run ∧
      (shortStore.vm.unit 1).got = [] ∧ (shortStore.vm.unit 1).part = .none) ∧
    ∃ d, (meaningOf (decodeWord FpCodes.default (shortStore.vm.unit 1).word) Config.default
      (shortStore.vm.unit 1).ia).run Config.default shortStore = .ok d :=
  ⟨by decide +kernel, ⟨_, rfl⟩⟩

/-- The checks that make a state well formed, one by one. -/
theorem wf_of_checks (s : State) (config : s.cfg.ok = true)
    (mem : ∀ v : VmId, (s.vms[v]).mem.wf = true ∧ (s.vms[v]).mem.below s.cfg.memSize = true)
    (console : ∀ v : VmId, (s.vms[v]).console.length = s.cfg.consoleCap ∧ (s.vms[v]).consoleLen ≤ s.cfg.consoleCap)
    (noError : ∀ v : VmId, (s.vms[v]).cpu.status.error = false)
    (pixels : ∀ v : VmId, ∀ p ∈ (s.vms[v]).pixels, p.col < s.cfg.fbWidth ∧ p.row < s.cfg.fbHeight)
    (units : ∀ v : VmId, (s.vms[v]).tick.units.length ≤ s.cfg.nUnits)
    (parts : ∀ v : VmId, ∀ x ∈ (s.vms[v]).tick.units, x.partOk s.cfg = true ∧ (x.phase ≠ .run → x.part = .none))
    (single : ∀ v : VmId, s.cfg.nUnits = 1 → (s.vms[v]).tick.lock = false ∧
      ∀ x ∈ (s.vms[v]).tick.units, x.phase = .top ∨ x.phase = .left)
    (regions : s.regions.length ≤ s.cfg.maxRegions)
    (dispatched : s.running = true → s.vm.tick.units.length = s.cfg.nUnits) : s.Wf :=
  ⟨config, fun v => ⟨(mem v).1, (mem v).2, (console v).1, (console v).2, noError v, pixels v, units v, parts v, single v⟩,
    regions, dispatched⟩

/-- For StepKeepsWellFormedness and the other invariants: two units under way, well formed. -/
theorem midTick_wf : midTick.Wf := by
  apply wf_of_checks <;> decide +kernel

theorem tickOver_wf : tickOver.Wf := by
  apply wf_of_checks <;> decide +kernel

/-- For PlacedWordRunsNext and SingleUnitTickEnds: a single-unit tick, well formed. -/
theorem witness_single_unit :
    (placed 0x100#32 0x002081B3).Wf ∧ (placed 0x100#32 0x002081B3).running = true ∧
    (placed 0x100#32 0x002081B3).cfg.nUnits = 1 ∧ decodable Config.default 0x002081B3#32 = true := by
  refine ⟨?_, by decide +kernel, by decide +kernel, by decide +kernel⟩
  apply wf_of_checks <;> decide +kernel

theorem midTick_steps : ∃ t, step midTick = .next t := next_of_isSome (by decide +kernel)

/-- For StepKeepsWellFormedness. -/
theorem witness_well_formed : midTick.Wf ∧ ∃ t, step midTick = .next t := ⟨midTick_wf, midTick_steps⟩

/-- For LockIsExclusive: unit 0 holds the lock. -/
theorem witness_lock_exclusive : midTick.Wf ∧ midTick.LockExclusive ∧ ∃ t, step midTick = .next t :=
  ⟨midTick_wf, by unfold State.LockExclusive VM.LockExclusive; decide +kernel, midTick_steps⟩

/-- For BudgetIsABound: two instructions in flight, a budget of 4. -/
theorem witness_budget : midTick.Wf ∧ midTick.WithinBudget ∧ ∃ t, step midTick = .next t :=
  ⟨midTick_wf, by unfold State.WithinBudget; decide +kernel, midTick_steps⟩

/-- For ClaimsAreContiguousAndDistinct: one claim, 0x100, made. -/
theorem witness_claims :
    midTick.Wf ∧ midTick.cfg.nUnits ≠ 1 ∧ midTick.ClaimsInOrder ∧ ∃ t, step midTick = .next t := by
  refine ⟨midTick_wf, by decide +kernel, fun v => ?_, midTick_steps⟩
  rcases midTick_vms v with h | h <;> rw [h]
  · refine ⟨by decide +kernel, fun _ => ⟨by decide +kernel, fun a ha => ⟨0, by decide +kernel, ?_⟩⟩⟩
    have hc : midVm.claimedAddresses = [0x100#32] := by decide +kernel
    rw [hc, List.mem_singleton] at ha
    rw [ha]; rfl
  · refine ⟨by decide +kernel, fun _ => ⟨by decide +kernel, fun a ha => ?_⟩⟩
    have hc : (VM.reset 256).claimedAddresses = [] := rfl
    simp [hc] at ha

/-- For UnstoppedTickUsesItsBudget: two units under way; and the end of a tick that used its budget. -/
theorem witness_progress :
    (midTick.Wf ∧ midTick.LockExclusive ∧ midTick.Progress ∧ ∃ t, step midTick = .next t) ∧
    (tickOver.Wf ∧ tickOver.LockExclusive ∧ tickOver.Progress ∧ tickOver.running = true ∧
      ∃ t, step tickOver = .next t ∧ t.running = false) := by
  refine ⟨⟨midTick_wf, witness_lock_exclusive.2.1, fun _ => ⟨?_, ?_, ?_⟩, midTick_steps⟩,
    tickOver_wf, ?_, fun _ => ⟨?_, ?_, ?_⟩, by decide +kernel, ?_⟩
  · exact fun _ _ => ⟨{ ExecUnit.fresh with phase := .locked }, by decide +kernel, by decide +kernel⟩
  · intro x hx h
    have hp : ∀ y ∈ midTick.vm.tick.units, y.phase = .locked ∨ y.phase = .fetch := by decide +kernel
    rcases hp x hx with hp | hp <;> simp [ExecUnit.stopping, hp] at h
  · decide +kernel
  · unfold State.LockExclusive VM.LockExclusive; decide +kernel
  · exact fun _ h => absurd h (by decide +kernel)
  · intro x hx h
    have hp : ∀ y ∈ tickOver.vm.tick.units, y.phase = .left := by decide +kernel
    simp [ExecUnit.stopping, hp x hx] at h
  · decide +kernel
  · exact ⟨tickOver.endTick, rfl, rfl⟩

theorem prof_zero (i : Fin 256) : (Vector.replicate 256 ProfEntry.zero)[i] = ProfEntry.zero := Vector.getElem_replicate i.isLt

/-- For ProfilerSlotsAreAligned: the address being executed is a multiple of 4. -/
theorem witness_profiler : midTick.Wf ∧ midTick.ProfAligned ∧ ∃ t, step midTick = .next t := by
  refine ⟨midTick_wf, fun v => ?_, midTick_steps⟩
  rcases midTick_vms v with h | h <;> rw [h]
  · exact ⟨fun i _ => prof_zero i, by decide +kernel⟩
  · exact ⟨fun i _ => prof_zero i, by decide +kernel⟩

/-- For StepTouchesOnlyTheRunningVm and RunningVmSeesNothingElse: two states that differ in another VM, the table and
the queue, and agree on the running VM. -/
theorem witness_isolation :
    let r := { (midTick.withVmAt 5 (VM.reset 0)) with regions := [⟨0#32, 1#32, ⟨true, false, false, false, false⟩, 0#32⟩] }
    (midTick.running = true ∧ r.running = true ∧ midTick.cfg = r.cfg ∧ midTick.cur = r.cur ∧ midTick.free = r.free ∧
      midTick.sched = r.sched ∧ midTick.vm = r.vm ∧ midTick.regions ≠ r.regions) ∧ ∃ t, step midTick = .next t :=
  ⟨⟨rfl, rfl, rfl, rfl, rfl, rfl, rfl, by decide +kernel⟩, midTick_steps⟩

/-- For CheckCountsAndAnswers and ValidatorWorkedCases. -/
theorem witness_check :
    let q : ProtRequest := ⟨0xFFFC#32, .read, 0#32, 4#32⟩
    (asked (.check q)).running = false ∧ (asked (.check q)).hostIn = .check q :: [] ∧
    Config.default.addrLimit = 0x10000 ∧ Config.default.kernelCheckAll = false := by decide +kernel

/-- For ImageLoad, with MEM_SIZE = 128 and IMAGE_BASE = 120: eight bytes fit, nine do not. -/
theorem witness_image :
    let s := fun (k : Nat) => { asked (.loadImage 3 (List.replicate k 1#8)) with
      cfg := { Config.default with memSize := 128, imageBase := 120 } }
    (s 8).running = false ∧ (s 8).hostIn = .loadImage 3 (List.replicate 8 1#8) :: [] ∧
    ((s 8).vms[(3 : VmId)]).mem.wf = true ∧
    (s 8).cfg.imageBase + (List.replicate 8 (1#8 : Byte)).length ≤ (s 8).cfg.memSize ∧
    (s 9).cfg.memSize < (s 9).cfg.imageBase + (List.replicate 9 (1#8 : Byte)).length := by decide +kernel

/-- For HostOperations: each operation pending, the accesses at the end of memory, tables of the greatest length and of
one more. -/
theorem witness_host :
    let region : Region := ⟨0#32, 1#32, ⟨false, false, false, false, false⟩, 0#32⟩
    (∀ op ∈ [HostOp.snapshot 7, .readVmStatus 7, .setVmStatus 7 .halted, .readRing 7 15, .readRingCtr 7,
        .writeResult 7 15 1#32, .drainConsole 7, .readProf 7 255, .resetProf 7, .createVM 7, .hostRead 7 0xFFFC#32 .word,
        .hostWrite 7 0xFFFF#32 .byte 1#32, .teardown 7, .setRegions (List.replicate 16 region),
        .setRegions (List.replicate 17 region), .readRegions, .readCounters, .hostRead 7 0xFFFD#32 .word,
        .hostWrite 7 0xFFFF#32 .half 1#32],
      (asked op).running = false ∧ (asked op).hostIn = op :: []) ∧
    (0xFFFC#32 : Word).toNat + Size.word.bytes ≤ Config.default.memSize ∧
    (0xFFFF#32 : Word).toNat + Size.byte.bytes ≤ Config.default.memSize ∧
    Config.default.memSize < (0xFFFD#32 : Word).toNat + Size.word.bytes ∧
    Config.default.memSize < (0xFFFF#32 : Word).toNat + Size.half.bytes ∧
    (List.replicate 16 region).length ≤ Config.default.maxRegions ∧
    Config.default.maxRegions < (List.replicate 17 region).length := by decide +kernel

end Sys2Proof.Tests
end

section
/-! The lock of R304 to R306 is exclusive (O46). -/

namespace Sys2Proof.Machine

/-! ### What the host's operations do to a VM's scheduler state -/

/-- Replacing one VM by one with the same scheduler state and CPUState changes neither in any VM. -/
theorem State.withVmAt_tick_cpu {s : State} {w : VmId} {vm : VM} (ht : vm.tick = (s.vms[w]).tick)
    (hc : vm.cpu = (s.vms[w]).cpu) (v : VmId) :
    ((s.withVmAt w vm).vms[v]).tick = (s.vms[v]).tick ∧ ((s.withVmAt w vm).vms[v]).cpu = (s.vms[v]).cpu := by
  rw [State.withVmAt_vms]
  split
  · next e => subst e; exact ⟨ht, hc⟩
  · exact ⟨rfl, rfl⟩

/-- After an operation of the host a VM has the scheduler state and the CPUState it had, or has just been created, or has
just started a tick (R301, R361). -/
theorem hostOp_vm {s t : State} {op : HostOp} (h : hostOp s op = .next t) (v : VmId) :
    ((t.vms[v]).tick = (s.vms[v]).tick ∧ (t.vms[v]).cpu = (s.vms[v]).cpu) ∨
      t.vms[v] = VM.reset s.cfg.consoleCap ∨
      ∃ budget pc, t.vms[v] = (s.vms[v]).startTick s.cfg budget pc := by
  cases op <;> simp only [hostOp] at h
  case createVM w =>
    cases h
    rw [State.withVmAt_vms]
    split
    · exact .inr (.inl rfl)
    · exact .inl ⟨rfl, rfl⟩
  case tick w budget pc =>
    unfold beginTick at h
    simp only at h
    split at h
    · cases h; exact .inl ⟨rfl, rfl⟩
    · split at h
      · cases h
      · cases h
        by_cases e : v = w
        · subst e; exact .inr (.inr ⟨budget, pc, by simp [State.withVmAt, State.vmAt]⟩)
        · exact .inl (by simp [State.withVmAt, Ne.symm (Fin.val_ne_of_ne e)])
  case loadImage w bytes =>
    unfold Machine.loadImage at h
    split at h
    · cases h
    · cases h; exact .inl (by refine State.withVmAt_tick_cpu ?_ ?_ v <;> rfl)
  case hostRead w a n =>
    unfold Machine.hostRead at h
    split at h
    · cases h
    · cases h; exact .inl ⟨rfl, rfl⟩
  case hostWrite w a n x =>
    unfold Machine.hostWrite at h
    split at h
    · cases h
    · cases h; exact .inl (by refine State.withVmAt_tick_cpu ?_ ?_ v <;> rfl)
  case setRegions table =>
    split at h
    · cases h
    · cases h; exact .inl ⟨rfl, rfl⟩
  case setVmStatus | writeResult | drainConsole | resetProf =>
    cases h; exact .inl (by refine State.withVmAt_tick_cpu ?_ ?_ v <;> rfl)
  all_goals cases h; exact .inl ⟨rfl, rfl⟩

/-! ### Where the lock is free -/

theorem VM.LockExclusive.congr {vm vm' : VM} (h : vm.LockExclusive) (hl : vm'.tick.lock = vm.tick.lock)
    (hu : vm'.tick.units = vm.tick.units) : vm'.LockExclusive := by
  simpa only [VM.LockExclusive, VM.countUnits, hl, hu] using h

/-- A free lock that no unit stands under is exclusive. -/
theorem VM.lockExclusive_of_free {vm : VM} (hl : vm.tick.lock = false)
    (hu : ∀ x ∈ vm.tick.units, x.phase.holdsLock = false) : vm.LockExclusive := by
  simpa [VM.LockExclusive, VM.countUnits, hl, List.countP_eq_zero] using hu

/-- A lock that no unit stands under is free. -/
theorem VM.LockExclusive.lock_eq_false {vm : VM} (h : vm.LockExclusive)
    (hu : ∀ x ∈ vm.tick.units, x.phase.holdsLock = false) : vm.tick.lock = false := by
  have hz : vm.countUnits Phase.holdsLock = 0 := by simpa [VM.countUnits, List.countP_eq_zero] using hu
  by_contra hl
  simp [VM.LockExclusive, hz, hl] at h

theorem VM.reset_lockExclusive (cap : Nat) : (VM.reset cap).LockExclusive :=
  VM.lockExclusive_of_free rfl (by simp [VM.reset, Tick.reset])

/-- At tick start no unit holds the lock (R301). -/
theorem VM.startTick_lockExclusive (cfg : Config) (vm : VM) (budget pc : Word) :
    (vm.startTick cfg budget pc).LockExclusive :=
  VM.lockExclusive_of_free rfl fun x hx => by rw [List.eq_of_mem_replicate hx]; rfl

theorem VM.endTick_lockExclusive {vm : VM} (h : vm.tick.lock = false) : vm.endTick.LockExclusive :=
  VM.lockExclusive_of_free h (by simp [VM.endTick])

/-! ### One step of one unit -/

/-- No access of an instruction touches the lock (R37). -/
theorem Ctx.Kept.lock {c c' : Ctx} (h : c.Kept c') : c'.vm.tick.lock = c.vm.tick.lock := by rw [h.tick]

/-- How a unit's step changes the lock and what it stands under: nothing of either, or it takes a free lock, or it gives
up the lock it holds. -/
theorem VM.LockExclusive.setUnit {vm vm' : VM} {u : Nat} {y : ExecUnit} (h : vm.LockExclusive)
    (hu : u < vm.tick.units.length) (hunits : vm'.tick.units = vm.tick.units)
    (hlock : (vm'.tick.lock = vm.tick.lock ∧ y.phase.holdsLock = (vm.unit u).phase.holdsLock) ∨
      (vm.tick.lock = false ∧ vm'.tick.lock = true ∧ y.phase.holdsLock = true) ∨
      (vm'.tick.lock = false ∧ (vm.unit u).phase.holdsLock = true ∧ y.phase.holdsLock = false)) :
    (vm'.setUnit u y).LockExclusive := by
  have hcount := vm'.countUnits_setUnit (hunits ▸ hu) y Phase.holdsLock
  have hsame : vm'.unit u = vm.unit u := by simp [VM.unit, hunits]
  have hle : (if (vm.unit u).phase.holdsLock then 1 else 0) ≤ vm.countUnits Phase.holdsLock := by
    split
    · next hx => exact List.countP_pos_iff.2 ⟨_, vm.unit_mem hu, hx⟩
    · exact Nat.zero_le _
  rw [hsame, VM.countUnits_congr hunits] at hcount
  unfold VM.LockExclusive at h ⊢
  rw [VM.setUnit_lock]
  rcases hlock with ⟨hl, hy⟩ | ⟨hl, hl', hy⟩ | ⟨hl', hx, hy⟩
  · rw [hy] at hcount; rw [hl]; omega
  · rw [hl] at h; rw [h] at hcount hle
    cases hx : (vm.unit u).phase.holdsLock <;> simp_all
  · rw [hx, hy] at hcount; rw [hx] at hle
    rw [hl']
    have : vm.countUnits Phase.holdsLock ≤ 1 := by rw [h]; split <;> omega
    simp at hcount hle ⊢; omega

/-- R304 to R306: each line of a unit's loop keeps the lock exclusive. -/
theorem UnitMove.lockExclusive {cfg : Config} {vm vm' : VM} {u : Nat} (hm : UnitMove cfg vm (vm.unit u) u vm')
    (hu : u < vm.tick.units.length) (h : vm.LockExclusive) : vm'.LockExclusive := by
  cases hm
  case takesLock hp hl => exact h.setUnit hu rfl (.inr (.inl ⟨hl, rfl, rfl⟩))
  case sentinel hp hpc => exact h.setUnit hu rfl (.inr (.inr ⟨rfl, by rw [hp]; rfl, rfl⟩))
  case claims hp hpc => exact h.setUnit hu rfl (.inr (.inr ⟨rfl, by rw [hp]; rfl, rfl⟩))
  case completes hp hc hr ha =>
    exact h.setUnit hu (hc ▸ (accessEvent_kept ha).units) (.inl ⟨hc ▸ (accessEvent_kept ha).lock, rfl⟩)
  case advances hp hc hr ha =>
    exact h.setUnit hu (hc ▸ (accessEvent_kept ha).units) (.inl ⟨hc ▸ (accessEvent_kept ha).lock, rfl⟩)
  case commits hp =>
    have ht : (vm.commitNext cfg u).tick = vm.tick := by unfold VM.commitNext; split <;> rfl
    exact h.setUnit hu (by rw [ht]) (.inl ⟨by rw [ht], by rw [hp]; rfl⟩)
  case waits hp hl hr => exact h.setUnit hu rfl (.inl ⟨rfl, rfl⟩)
  case gone => exact h
  all_goals exact h.setUnit hu rfl (.inl ⟨rfl, by simp [Phase.holdsLock, *]⟩)

/-! ### An iteration of the only unit (R320) -/

/-- An instruction changes the VM of the tick and the draw counter alone. -/
theorem exec_withVm {i : Instr} {s t : State} (h : exec i s = .next t) :
    ∃ vm free, t = { s.withVm vm with free := free } := by
  obtain ⟨d, -, rfl⟩ := exec_next h
  exact ⟨_, d.ctx.free, by simp [State.setNext, State.withCtx, State.withVm]; rfl⟩

/-- An iteration changes the VM of the tick and the draw counter alone. -/
theorem iterate_withVm {s t : State} (h : iterate s = .next t) : ∃ vm free, t = { s.withVm vm with free := free } := by
  rcases iterate_cases h with ⟨-, rfl⟩ | ⟨-, -, -, rfl⟩ | ⟨-, -, -, w, r, -, hr, rfl⟩
  · exact ⟨_, s.free, rfl⟩
  · exact ⟨_, s.free, rfl⟩
  · obtain ⟨vm, free, rfl⟩ := exec_withVm hr
    exact ⟨_, free, by simp [State.finish, State.claim, State.withVm]; rfl⟩

/-- An instruction leaves the lock, and every unit but the one that moves (R41, R190). -/
theorem exec_units {i : Instr} {s t : State} (h : exec i s = .next t) :
    t.vm.tick.lock = s.vm.tick.lock ∧ ∃ y, t.vm.tick.units = s.vm.tick.units.set s.vm.tick.turn y := by
  obtain ⟨d, hd, rfl⟩ := exec_next h
  have hk := Act.run_kept hd
  have hlock : d.ctx.vm.tick.lock = s.vm.tick.lock := hk.lock
  have hturn : d.ctx.vm.tick.turn = s.vm.tick.turn := by rw [hk.tick]; rfl
  have hunits : d.ctx.vm.tick.units = s.vm.tick.units := hk.units
  rw [State.setNext_vm, State.withCtx_vm, VM.setUnit_lock, VM.setUnit_units, hlock, hturn, hunits]
  exact ⟨rfl, _, rfl⟩

/-- What follows an instruction in its iteration leaves the lock, and the unit outside the lock (R308 to R313). -/
theorem VM.finish_units (cfg : Config) (vm : VM) (u : Nat) :
    (vm.finish cfg u).tick.lock = vm.tick.lock ∧
      ∃ y : ExecUnit, (y.phase = .top ∨ y.phase = .left) ∧ (vm.finish cfg u).tick.units = vm.tick.units.set u y := by
  have ht : (vm.commitNext cfg u).tick = vm.tick := by unfold VM.commitNext; split <;> rfl
  unfold VM.finish VM.endIteration
  split
  · exact ⟨by simp [ht], _, .inr rfl, by simp [VM.goto, ht]; rfl⟩
  · split
    · exact ⟨by simp [ht], _, .inr rfl, by simp [VM.goto, ht]; rfl⟩
    · exact ⟨by simp [ht], _, .inl rfl, by simp [VM.goto, ht]; rfl⟩

/-- After an iteration the lock is as before and the unit stands between iterations, or has left the loop. -/
theorem iterate_units {s t : State} (h : iterate s = .next t) :
    t.vm.tick.lock = s.vm.tick.lock ∧
      ∃ y : ExecUnit, (y.phase = .top ∨ y.phase = .left) ∧ t.vm.tick.units = s.vm.tick.units.set 0 y := by
  rcases iterate_cases h with ⟨-, rfl⟩ | ⟨-, -, -, rfl⟩ | ⟨-, hl, -, w, r, -, hr, rfl⟩
  · exact ⟨by simp, _, .inr rfl, by simp [VM.goto]; rfl⟩
  · exact ⟨by simp, _, .inr rfl, by simp [VM.goto]; rfl⟩
  · obtain ⟨hrl, y, hru⟩ := exec_units hr
    obtain ⟨hfl, z, hz, hfu⟩ := r.vm.finish_units r.cfg 0
    refine ⟨?_, z, hz, ?_⟩
    · rw [State.finish, State.withVm_vm, hfl, hrl, hl, State.claim, State.withVm_vm]; rfl
    · rw [State.finish, State.withVm_vm, hfu, hru, State.claim, State.withVm_vm]
      simp [VM.claim, VM.setPc, VM.setLock]

/-- R320: the only unit never stands under the lock when an iteration is over. -/
theorem iterate_lockExclusive {s t : State} (h : iterate s = .next t) (hl : s.vm.tick.lock = false)
    (hu : ∀ x ∈ s.vm.tick.units, x.phase = .top ∨ x.phase = .left) : t.vm.LockExclusive := by
  obtain ⟨htl, y, hy, htu⟩ := iterate_units h
  refine VM.lockExclusive_of_free (htl.trans hl) fun x hx => ?_
  have hx : x.phase = .top ∨ x.phase = .left := by
    rcases List.mem_or_eq_of_mem_set (htu ▸ hx) with hx | rfl
    · exact hu x hx
    · exact hy
  rcases hx with hx | hx <;> rw [hx] <;> rfl

/-! ### Every step -/

/-- A step of the tick that leaves the lock of its VM exclusive leaves every VM's exclusive. -/
theorem State.LockExclusive.withVm {s t : State} (h : s.LockExclusive) {vm : VM} (ht : t.vms = (s.withVm vm).vms)
    (hvm : vm.LockExclusive) : t.LockExclusive := by
  intro v
  rw [ht, State.withVm_vms]
  split
  · exact hvm
  · exact h v

theorem hostOp_lockExclusive {s t : State} {op : HostOp} (h : hostOp s op = .next t) (hs : s.LockExclusive) :
    t.LockExclusive := by
  intro v
  rcases hostOp_vm h v with ⟨ht, -⟩ | he | ⟨budget, pc, he⟩
  · exact (hs v).congr (by rw [ht]) (by rw [ht])
  · rw [he]; exact VM.reset_lockExclusive _
  · rw [he]; exact VM.startTick_lockExclusive ..

/-- When a tick ends every unit of it has left the loop (R316, R324). -/
theorem units_left_of_tick_over {s : State} (hw : s.Wf) (hr : s.running = true)
    (ho : (s.cfg.nUnits = 1 ∧ ∀ x xs, s.vm.tick.units = x :: xs → x.phase = .left) ∨
      (s.cfg.nUnits ≠ 1 ∧ s.vm.liveUnits = [])) : ∀ x ∈ s.vm.tick.units, x.phase = .left := by
  intro x hx
  rcases ho with ⟨hn, hleft⟩ | ⟨-, hlive⟩
  · obtain ⟨y, hy⟩ := List.length_eq_one_iff.1 ((hw.dispatched hr).trans hn)
    rw [hy, List.mem_singleton] at hx
    exact hx ▸ hleft y [] hy
  · obtain ⟨u, hu, rfl⟩ := List.mem_iff_getElem.1 hx
    by_contra hne
    have : u ∈ s.vm.liveUnits := (s.vm.mem_liveUnits u).2 ⟨hu, by simpa [VM.unit, hu] using hne⟩
    simp [hlive] at this

/-- Settles O46, by the cases of a step: the host leaves or clears a VM's scheduler state, a tick that ends has no unit under
the lock, the only unit holds no lock between iterations, and each line of a unit's loop keeps the count. -/
theorem lockIsExclusive : Obligations.LockIsExclusive := by
  intro s t hw hs h
  have hvm : s.vm.LockExclusive := hs s.cur
  rcases step_cases h with ⟨-, -, rfl⟩ | ⟨-, op, rest, -, ho⟩ | ⟨hr, rfl, ho⟩ | ⟨-, hn, -, hi⟩ |
    ⟨-, -, u, c, n, hu, -, hstep, rfl⟩
  · exact hs
  · exact hostOp_lockExclusive ho hs
  · refine hs.withVm rfl (VM.endTick_lockExclusive (hvm.lock_eq_false fun x hx => ?_))
    rw [units_left_of_tick_over hw hr ho x hx]; rfl
  · obtain ⟨hl, hu⟩ := (hw.vms s.cur).single hn
    have ht := iterate_lockExclusive hi hl hu
    obtain ⟨vm, free, rfl⟩ := iterate_withVm hi
    exact hs.withVm rfl (vm := vm) (State.withVm_vm s vm ▸ ht)
  · exact hs.withVm rfl (((unitStep_move hstep).lockExclusive hu hvm).congr (vm' := c.vm.setTurn _) rfl rfl)

end Sys2Proof.Machine
end

section
/-! Rounding to nearest, ties to even (O22). The bits v[30:0] of a magnitude, read as a number, order the magnitudes: the
value of the bits is a strictly rising function of them, so the nearest bits are among two neighbours. -/

namespace Sys2Proof.Machine

/-! ### The value of the bits of a magnitude -/

/-- The magnitude with bits v[30:0] = `k`, in units of 2^-149; beyond the bits of infinity the formula goes on. -/
def Fp.magUnits (k : Nat) : Nat := if k / 2 ^ 23 = 0 then k % 2 ^ 23 else (2 ^ 23 + k % 2 ^ 23) * 2 ^ (k / 2 ^ 23 - 1)

theorem Fp.mag_eq (v : Word) : mag v = v.toNat % 2 ^ 31 := by simp [mag, BitVec.extractLsb'_toNat]

theorem Fp.expo_eq (v : Word) : expo v = mag v / 2 ^ 23 := by
  rw [mag_eq]; simp only [expo, BitVec.extractLsb'_toNat, Nat.shiftRight_eq_div_pow]; omega

theorem Fp.frac_eq (v : Word) : frac v = mag v % 2 ^ 23 := by
  rw [mag_eq]; simp only [frac, BitVec.extractLsb'_toNat, Nat.shiftRight_eq_div_pow]; omega

theorem Fp.mag_lt (v : Word) : mag v < 2 ^ 31 := by rw [mag_eq]; exact Nat.mod_lt _ (by decide)

theorem Fp.mag_ofNat {k : Nat} (h : k < 2 ^ 31) : mag (BitVec.ofNat 32 k) = k := by
  rw [mag_eq, BitVec.toNat_ofNat]; omega

/-- R232: the value of a word depends on the bits v[30:0] as `magUnits` says. -/
theorem Fp.units_eq (v : Word) : units v = magUnits (mag v) := by rw [units, magUnits, expo_eq, frac_eq]

/-- A significand `q` at the quantum 2^e has the bits e * 2^23 + q, also when `q` is one past the largest significand. -/
theorem Fp.magUnits_add {e q : Nat} (hn : e = 0 ∨ 2 ^ 23 ≤ q) (hq : q ≤ 2 ^ 24) :
    magUnits (e * 2 ^ 23 + q) = q * 2 ^ e := by
  unfold magUnits
  rcases Nat.lt_or_ge q (2 ^ 23) with hsub | hnorm
  · obtain rfl : e = 0 := by omega
    rw [if_pos (by omega)]; omega
  rcases Nat.lt_or_ge q (2 ^ 24) with hlt | hge
  · have hdiv : (e * 2 ^ 23 + q) / 2 ^ 23 = e + 1 := by omega
    have hmod : 2 ^ 23 + (e * 2 ^ 23 + q) % 2 ^ 23 = q := by omega
    rw [hdiv, hmod, if_neg (by omega), Nat.add_sub_cancel]
  · have hdiv : (e * 2 ^ 23 + q) / 2 ^ 23 = e + 2 := by omega
    have hmod : (e * 2 ^ 23 + q) % 2 ^ 23 = 0 := by omega
    obtain rfl : q = 2 ^ 24 := by omega
    rw [hdiv, hmod, if_neg (by omega), show e + 2 - 1 = e + 1 from rfl, pow_succ]; ring

/-- All bits are of that form. -/
theorem Fp.exists_significand (k : Nat) : ∃ e q, k = e * 2 ^ 23 + q ∧ (e = 0 ∨ 2 ^ 23 ≤ q) ∧ q < 2 ^ 24 := by
  rcases Nat.lt_or_ge k (2 ^ 23) with h | h
  · exact ⟨0, k, by omega, .inl rfl, by omega⟩
  · exact ⟨k / 2 ^ 23 - 1, 2 ^ 23 + k % 2 ^ 23, by omega, .inr (by omega), by omega⟩

theorem Fp.magUnits_strictMono : StrictMono magUnits := by
  refine strictMono_nat_of_lt_succ fun k => ?_
  obtain ⟨e, q, rfl, hn, hq⟩ := exists_significand k
  rw [Nat.add_assoc, magUnits_add hn (by omega), magUnits_add (by omega) (by omega)]
  exact Nat.mul_lt_mul_of_pos_right (Nat.lt_succ_self q) (Nat.two_pow_pos e)

/-- The bits of infinity, one quantum past the largest finite value (R8). -/
theorem Fp.magUnits_inf : magUnits 0x7F800000 = 2 ^ 23 * 2 ^ 254 :=
  magUnits_add (e := 254) (q := 2 ^ 23) (by decide) (by decide)

theorem Fp.magUnits_largest : magUnits 0x7F7FFFFF = (2 ^ 24 - 1) * 2 ^ 253 :=
  magUnits_add (e := 253) (q := 2 ^ 24 - 1) (by decide) (by decide)

/-! ### The nearest bits -/

/-- At the quantum `roundMag` picks, the significand has no more than 24 bits, and exactly 24 above the smallest
quantum. -/
theorem Fp.quantum_significand (num den : Nat) :
    num / (den * 2 ^ quantum num den) < 2 ^ 24 ∧
      (quantum num den = 0 ∨ 2 ^ 23 ≤ num / (den * 2 ^ quantum num den)) := by
  rw [← Nat.div_div_eq_div_mul]
  unfold quantum
  generalize num / den = x
  have hx : x < 2 ^ (x.log2 + 1) := Nat.lt_log2_self
  rcases Nat.lt_or_ge x.log2 24 with h | h
  · rw [show x.log2 - 23 = 0 by omega, pow_zero, Nat.div_one]
    exact ⟨hx.trans_le (Nat.pow_le_pow_right (by decide) (by omega)), .inl rfl⟩
  · have hx0 : x ≠ 0 := by rintro rfl; simp at h
    have hlo : 2 ^ 23 * 2 ^ (x.log2 - 23) ≤ x := by
      rw [← pow_add, show 23 + (x.log2 - 23) = x.log2 by omega]; exact Nat.log2_self_le hx0
    have hhi : x < 2 ^ 24 * 2 ^ (x.log2 - 23) := by
      rwa [← pow_add, show 24 + (x.log2 - 23) = x.log2 + 1 by omega]
    exact ⟨Nat.div_lt_of_lt_mul (by rwa [Nat.mul_comm] at hhi), .inr ((Nat.le_div_iff_mul_le (Nat.two_pow_pos _)).2 hlo)⟩

/-- How far the magnitude with bits `k` is from num/den, in units over den. -/
def Fp.far (num den k : Nat) : Nat := ((magUnits k * den : Nat) - (num : Nat) : Int).natAbs

/-- The bits `roundMag` gives to nearest even when nothing overflows. -/
def Fp.nearestBits (num den : Nat) : Nat :=
  let d := den * 2 ^ quantum num den
  quantum num den * 2 ^ 23 + num / d + (if roundsUp .nearestEven false (num / d) (num % d) d then 1 else 0)

theorem Fp.roundMag_nearestEven (s : Bool) (num den : Nat) :
    roundMag .nearestEven s num den = if 0x7F800000 ≤ nearestBits num den then 0x7F800000 else nearestBits num den := rfl

/-- With exponents unbounded no bits are nearer than `nearestBits`, and where others are as near they are the even ones. -/
theorem Fp.nearestBits_nearest {num den : Nat} (hden : 0 < den) (k : Nat) :
    far num den (nearestBits num den) ≤ far num den k ∧
      (far num den (nearestBits num den) = far num den k → k ≠ nearestBits num den → nearestBits num den % 2 = 0) := by
  obtain ⟨hq, hn⟩ := quantum_significand num den
  simp only [nearestBits]
  generalize quantum num den = e at hq hn ⊢
  generalize hd : den * 2 ^ e = d at hq hn ⊢
  have hpos : 0 < d := hd ▸ Nat.mul_pos hden (Nat.two_pow_pos e)
  have hnum := Nat.div_add_mod' num d
  have hr := Nat.mod_lt num hpos
  generalize num / d = q at hq hn hnum ⊢
  generalize num % d = r at hnum hr ⊢
  -- the two neighbours of num/den, and every other magnitude outside them
  have hlo : magUnits (e * 2 ^ 23 + q) * den = q * d := by rw [magUnits_add hn hq.le, ← hd]; ring
  have hhi : magUnits (e * 2 ^ 23 + q + 1) * den = q * d + d := by
    rw [Nat.add_assoc, magUnits_add (by omega) (by omega), ← hd]; ring
  have hmono : ∀ {i j}, i < j → magUnits i * den < magUnits j * den :=
    fun h => Nat.mul_lt_mul_of_pos_right (magUnits_strictMono h) hden
  have hk : (k = e * 2 ^ 23 + q ∧ magUnits k * den = q * d) ∨ (k = e * 2 ^ 23 + q + 1 ∧ magUnits k * den = q * d + d) ∨
      magUnits k * den < q * d ∨ q * d + d < magUnits k * den := by
    rcases Nat.lt_trichotomy k (e * 2 ^ 23 + q) with h | rfl | h
    · exact .inr (.inr (.inl (hlo ▸ hmono h)))
    · exact .inl ⟨rfl, hlo⟩
    · rcases Nat.eq_or_lt_of_le (Nat.succ_le_of_lt h) with rfl | h
      · exact .inr (.inl ⟨rfl, hhi⟩)
      · exact .inr (.inr (.inr (hhi ▸ hmono h)))
  simp only [roundsUp, Bool.or_eq_true, Bool.and_eq_true, decide_eq_true_eq]
  unfold far
  split
  · next hup =>
    rw [hhi]; omega
  · next hdown =>
    rw [Nat.add_zero, hlo]; omega

/-- R234: rounding overflows exactly from halfway past the largest finite value on. -/
theorem Fp.inf_le_nearestBits_iff {num den : Nat} (hden : 0 < den) :
    0x7F800000 ≤ nearestBits num den ↔ (2 ^ 25 - 1) * 2 ^ 253 * den ≤ 2 * num := by
  have hmono : ∀ {i j}, i ≤ j → magUnits i * den ≤ magUnits j * den :=
    fun h => Nat.mul_le_mul_right den (magUnits_strictMono.monotone h)
  constructor
  · intro hb
    have hnear := (nearestBits_nearest (num := num) hden 0x7F7FFFFF).1
    have hge := hmono hb
    simp only [far, magUnits_largest] at hnear
    rw [magUnits_inf] at hge
    omega
  · intro hhalf
    by_contra hb
    obtain ⟨hnear, heven⟩ := nearestBits_nearest (num := num) hden 0x7F800000
    have hle := hmono (show nearestBits num den ≤ 0x7F7FFFFF by omega)
    rw [magUnits_largest] at hle
    simp only [far, magUnits_inf] at hnear heven
    have htie : magUnits (nearestBits num den) * den = magUnits 0x7F7FFFFF * den := by rw [magUnits_largest]; omega
    have hlargest := magUnits_strictMono.injective (Nat.eq_of_mul_eq_mul_right hden htie)
    have := heven (by omega) (by omega)
    omega

theorem Fp.units_ofNat {k : Nat} (h : k < 2 ^ 31) : units (BitVec.ofNat 32 k) = magUnits k := by
  rw [units_eq, mag_ofNat h]

/-- Settles O22: `nearestBits` is nearest with exponents unbounded, and it reaches the bits of infinity exactly from halfway
past the largest finite value on. -/
theorem roundToNearestEven : Obligations.RoundToNearestEven := by
  intro sgn num den hden m value far
  have hover := Fp.inf_le_nearestBits_iff (num := num) hden
  have hfar : ∀ k, k < 0x7F800000 → far k = Fp.far num den k := fun k hk => by
    simp only [far, value, Fp.far, Fp.units_ofNat (show k < 2 ^ 31 by omega)]
  have hm : m = if 0x7F800000 ≤ Fp.nearestBits num den then 0x7F800000 else Fp.nearestBits num den :=
    Fp.roundMag_nearestEven sgn num den
  constructor
  · intro h
    rw [hm, if_pos (hover.2 h)]
  · intro h
    have hlt : ¬ 0x7F800000 ≤ Fp.nearestBits num den := by rw [hover]; omega
    rw [if_neg hlt] at hm
    have hml : m < 0x7F800000 := by omega
    refine ⟨hml, fun k hk => ?_⟩
    rw [hfar m hml, hfar k hk, hm]
    exact Fp.nearestBits_nearest hden k

end Sys2Proof.Machine
end

section
/-! The arithmetic operations are correctly rounded (O23): each result that is not a special case is `round` of the exact
one, and rounding a signed exact value is what `Fp.NearestEven` says. -/

namespace Sys2Proof.Machine

/-! ### Packed words and the classes of values -/

@[simp] theorem Fp.sign_pack (s : Bool) (m : Nat) : sign (pack s m) = s := by
  unfold sign pack; rw [BitVec.getLsbD_append]; simp

theorem Fp.mag_pack {s : Bool} {m : Nat} (h : m < 2 ^ 31) : mag (pack s m) = m := by
  have : (pack s m).extractLsb' 0 31 = BitVec.ofNat 31 m := by
    ext i hi
    rw [BitVec.getElem_extractLsb', pack, BitVec.getLsbD_append]; simp [hi]
  rw [mag, this, BitVec.toNat_ofNat, Nat.mod_eq_of_lt h]

theorem Fp.isNaN_iff (v : Word) : isNaN v = true ↔ 0x7F800000 < mag v := by
  have := mag_lt v
  simp only [isNaN, expo_eq, frac_eq, Bool.and_eq_true, decide_eq_true_eq]; omega

theorem Fp.isInf_iff (v : Word) : isInf v = true ↔ mag v = 0x7F800000 := by
  have := mag_lt v
  simp only [isInf, expo_eq, frac_eq, Bool.and_eq_true, decide_eq_true_eq]; omega

theorem Fp.finite_iff (v : Word) : isNaN v = false ∧ isInf v = false ↔ mag v < 0x7F800000 := by
  rw [← Bool.not_eq_true, ← Bool.not_eq_true, isNaN_iff, isInf_iff]; omega

theorem Fp.magUnits_eq_zero {k : Nat} : magUnits k = 0 ↔ k = 0 :=
  ⟨fun h => magUnits_strictMono.injective (h.trans (by decide)), fun h => by rw [h]; decide⟩

theorem Fp.isZero_iff (v : Word) : isZero v = true ↔ units v = 0 := by simp [isZero, units_eq, magUnits_eq_zero]

theorem Fp.signedUnits_eq (v : Word) : signedUnits v = if sign v then -(units v : Int) else units v := rfl

theorem Fp.signedUnits_eq_zero {v : Word} : signedUnits v = 0 ↔ units v = 0 := by rw [signedUnits_eq]; split <;> omega

theorem Fp.inf_eq_pack (s : Bool) : inf s = pack s 0x7F800000 := by cases s <;> rfl

theorem Fp.getLsbD_zero_of_mag_even {v : Word} (h : mag v % 2 = 0) : v.getLsbD 0 = false := by
  rw [mag_eq] at h
  simp only [BitVec.getLsbD, Nat.testBit_zero, decide_eq_false_iff_not]; omega

/-! ### Rounding a signed exact value -/

theorem Fp.signedUnits_mul (v : Word) (d : Nat) :
    signedUnits v * d = if sign v then -((units v * d : Nat) : Int) else (units v * d : Nat) := by
  rw [signedUnits_eq]; split <;> push_cast <;> ring

/-- A value of the sign of the exact one is as far from it as its magnitude is from the exact magnitude. -/
theorem Fp.distance_of_sign {r : Word} {n : Int} (d : Nat) (hs : n ≠ 0 → sign r = decide (n < 0)) :
    (signedUnits r * d - n).natAbs = far n.natAbs d (mag r) := by
  rw [signedUnits_mul, far, ← units_eq]
  generalize units r * d = p
  rcases Int.lt_trichotomy n 0 with h | rfl | h
  · rw [hs (by omega)]; simp only [h, decide_true, if_true]; omega
  · split <;> omega
  · rw [hs (by omega)]; simp only [Int.not_lt.2 h.le, decide_false, Bool.false_eq_true, if_false]; omega

/-- No value is nearer to the exact one than its magnitude to the exact magnitude. -/
theorem Fp.far_le_distance (w : Word) (n : Int) (d : Nat) : far n.natAbs d (mag w) ≤ (signedUnits w * d - n).natAbs := by
  rw [signedUnits_mul, far, ← units_eq]
  generalize units w * d = p
  split <;> omega

/-- Two values of one magnitude that are equally far from the exact one, zero being no nearer, are equal. -/
theorem Fp.signedUnits_eq_of_tie {r w : Word} {n : Int} {d : Nat} (hd : 0 < d) (hs : n ≠ 0 → sign r = decide (n < 0))
    (hzero : far n.natAbs d (mag r) ≤ far n.natAbs d 0) (hmag : mag w = mag r)
    (htie : (signedUnits r * d - n).natAbs = (signedUnits w * d - n).natAbs) : signedUnits w = signedUnits r := by
  have hunits : units w = units r := by rw [units_eq, units_eq, hmag]
  refine mul_right_cancel₀ (b := (d : Int)) (by omega) ?_
  rw [distance_of_sign d hs, far, ← units_eq, signedUnits_mul, hunits] at htie
  rw [far, far, ← units_eq, magUnits_eq_zero.2 rfl, Nat.zero_mul] at hzero
  rw [signedUnits_mul, signedUnits_mul, hunits]
  generalize units r * d = p at htie hzero ⊢
  generalize sign w = sw at htie ⊢
  rcases Int.lt_trichotomy n 0 with h | rfl | h
  · have habs : (n.natAbs : Int) = -n := by omega
    rw [habs] at htie
    rw [hs (by omega), decide_eq_true h]
    cases sw <;> simp only [Bool.false_eq_true, if_true, if_false] at htie ⊢
    omega
  · split <;> split <;> omega
  · have habs : (n.natAbs : Int) = n := by omega
    rw [habs] at htie
    rw [hs (by omega), decide_eq_false (by omega)]
    cases sw <;> simp only [Bool.false_eq_true, if_true, if_false] at htie ⊢
    omega

/-- R8, R234: the exact magnitude rounded, with the exact sign, is the exact value rounded to nearest even. -/
theorem Fp.nearestEven_pack (s : Bool) (num : Nat) {d : Nat} (hd : 0 < d) :
    NearestEven (pack s (roundMag .nearestEven s num d)) (if s then -(num : Int) else num) d := by
  generalize hn : (if s then -(num : Int) else num) = n
  have habs : n.natAbs = num := by rw [← hn]; split <;> simp
  have hs : n ≠ 0 → s = decide (n < 0) := by
    rw [← hn]; cases s <;> simp; omega
  subst habs
  have hover := inf_le_nearestBits_iff (num := n.natAbs) hd
  have hnear := nearestBits_nearest (num := n.natAbs) hd
  have hround := roundMag_nearestEven s n.natAbs d
  generalize hr : pack s (roundMag .nearestEven s n.natAbs d) = r
  have hsign : sign r = s := by rw [← hr, sign_pack]
  have hmag : mag r = roundMag .nearestEven s n.natAbs d := by
    rw [← hr]; exact mag_pack (by rw [hround]; split <;> omega)
  rw [← hsign] at hs
  -- below halfway past the largest finite value the magnitude is `nearestBits`
  have hfin : 2 * n.natAbs < (2 ^ 25 - 1) * 2 ^ 253 * d → mag r = nearestBits n.natAbs d ∧ mag r < 0x7F800000 := by
    intro h
    have : ¬ 0x7F800000 ≤ nearestBits n.natAbs d := by rw [hover]; omega
    rw [if_neg this] at hround
    rw [hmag, hround]; omega
  refine ⟨hs, fun h => ?_, fun h => ?_, fun h w hw hw' => ?_, fun h w hw hw' htie hne => ?_⟩
  · rw [← hr, hround, if_pos (hover.2 h), inf_eq_pack, ← hs, hsign]
    rintro rfl
    have : 0 < (2 ^ 25 - 1) * 2 ^ 253 * d := by positivity
    simp at h; omega
  · exact (finite_iff r).2 (hfin h).2
  · rw [distance_of_sign d hs, (hfin h).1]
    exact (hnear (mag w)).1.trans (far_le_distance w n d)
  · refine getLsbD_zero_of_mag_even ?_
    have hbest : ∀ k, far n.natAbs d (mag r) ≤ far n.natAbs d k := fun k => (hfin h).1 ▸ (hnear k).1
    have hmne : mag w ≠ mag r := fun hm => hne (signedUnits_eq_of_tie hd hs (hbest 0) hm htie)
    have heq : far n.natAbs d (mag r) = far n.natAbs d (mag w) :=
      (hbest _).antisymm ((far_le_distance w n d).trans (htie.symm.trans (distance_of_sign d hs)).le)
    rw [(hfin h).1] at heq hmne ⊢
    exact (hnear (mag w)).2 heq hmne

/-- A zero is the exact value 0 rounded. -/
theorem Fp.nearestEven_zero {r : Word} (h : isZero r = true) {d : Nat} (hd : 0 < d) : NearestEven r 0 d := by
  have hu : units r = 0 := (isZero_iff r).1 h
  have hv : signedUnits r = 0 := signedUnits_eq_zero.2 hu
  have hm : mag r = 0 := magUnits_eq_zero.1 (units_eq r ▸ hu)
  refine ⟨fun h => absurd rfl h, fun h => ?_, fun _ => (finite_iff r).2 (by omega), fun _ w _ _ => ?_,
    fun _ w _ _ _ _ => getLsbD_zero_of_mag_even (by omega)⟩
  · have : 0 < (2 ^ 25 - 1) * 2 ^ 253 * d := by positivity
    simp at h; omega
  · simp [hv]

/-! ### Sum, difference, product, quotient -/

theorem Fp.isZero_zero (s : Bool) : isZero (zero s) = true := by cases s <;> decide

theorem Fp.flush_of_off {cfg : Config} (hf : cfg.flushSubnormals = false) (v : Word) : flush cfg v = v := by
  simp [flush, hf]

/-- R237: flipping the sign keeps the magnitude and negates the value. -/
theorem Fp.mag_flipSign (v : Word) : mag (v ^^^ 0x80000000#32) = mag v := by
  have : (0x80000000#32).extractLsb' 0 31 = 0#31 := by decide
  simp [mag, BitVec.extractLsb'_xor, this]

theorem Fp.signedUnits_flipSign (v : Word) : signedUnits (v ^^^ 0x80000000#32) = -signedUnits v := by
  have hs : sign (v ^^^ 0x80000000#32) = !sign v := by simp [sign]
  rw [signedUnits_eq, signedUnits_eq, hs, units_eq, units_eq, mag_flipSign]
  cases sign v <;> simp

section Default
variable {cfg : Config} (hr : cfg.fpRound = .nearestEven) (hf : cfg.flushSubnormals = false)
include hr hf

/-- With the default parameters `round` rounds the exact value to nearest even. -/
theorem Fp.nearestEven_round {s : Bool} {num d : Nat} {n : Int} (hd : 0 < d) (hn : n = if s then -(num : Int) else num) :
    NearestEven (round cfg s num d) n d := by
  rw [round, flush_of_off hf, hr, hn]
  exact nearestEven_pack s num hd

variable {a b : Word} (ha : Fp.isNaN a = false) (ha' : Fp.isInf a = false) (hb : Fp.isNaN b = false)
  (hb' : Fp.isInf b = false)
include ha ha' hb hb'

/-- R236. -/
theorem Fp.add_nearestEven : NearestEven (add cfg a b) (signedUnits a + signedUnits b) 1 := by
  simp only [add, ha, hb, flush_of_off hf, addCore, ha', hb', Bool.or_self, Bool.and_self, Bool.false_eq_true, if_false]
  split
  · next hz =>
    rw [Bool.and_eq_true] at hz
    rw [signedUnits_eq_zero.2 ((isZero_iff a).1 hz.1), signedUnits_eq_zero.2 ((isZero_iff b).1 hz.2)]
    split
    · exact nearestEven_zero hz.1 Nat.one_pos
    · exact nearestEven_zero (isZero_zero false) Nat.one_pos
  · split
    · next hsum => rw [hsum]; exact nearestEven_zero (isZero_zero false) Nat.one_pos
    · refine nearestEven_round hr hf Nat.one_pos ?_
      split
      · next h => rw [decide_eq_true_eq] at h; omega
      · next h => rw [decide_eq_true_eq] at h; omega

/-- R237. -/
theorem Fp.sub_nearestEven : NearestEven (sub cfg a b) (signedUnits a - signedUnits b) 1 := by
  have hn := (finite_iff (b ^^^ 0x80000000#32)).2 (mag_flipSign b ▸ (finite_iff b).1 ⟨hb, hb'⟩)
  rw [sub_eq_add_neg, ← signedUnits_flipSign]
  simpa [sub, ha, hb] using add_nearestEven hr hf ha ha' hn.1 hn.2

/-- R238. -/
theorem Fp.mul_nearestEven : NearestEven (mul cfg a b) (signedUnits a * signedUnits b) (2 ^ 149) := by
  simp only [mul, ha, hb, flush_of_off hf, mulCore, ha', hb', Bool.or_self, Bool.and_false, Bool.false_and,
    Bool.false_eq_true, if_false]
  split
  · next hz =>
    have hprod : signedUnits a * signedUnits b = 0 := by
      rw [Bool.or_eq_true, isZero_iff, isZero_iff, ← signedUnits_eq_zero, ← signedUnits_eq_zero] at hz
      exact mul_eq_zero.2 hz
    rw [hprod]; exact nearestEven_zero (isZero_zero _) (Nat.two_pow_pos _)
  · refine nearestEven_round hr hf (Nat.two_pow_pos _) ?_
    rw [signedUnits_eq, signedUnits_eq]
    cases sign a <;> cases sign b <;> simp

/-- R239, with a divisor that is not 0. -/
theorem Fp.div_nearestEven (h0 : signedUnits b ≠ 0) :
    NearestEven (div cfg a b) (signedUnits a * 2 ^ 149 * (if signedUnits b < 0 then -1 else 1)) (signedUnits b).natAbs := by
  have hu : units b ≠ 0 := fun h => h0 (signedUnits_eq_zero.2 h)
  have hz : isZero b = false := by rw [← Bool.not_eq_true, isZero_iff]; exact hu
  have hpos : 0 < units b := Nat.pos_of_ne_zero hu
  have habs : (signedUnits b).natAbs = units b := by rw [signedUnits_eq]; split <;> simp
  have hsign : (if signedUnits b < 0 then -1 else 1 : Int) = if sign b then -1 else 1 := by
    rw [signedUnits_eq]; cases sign b <;> simp [hpos]
  rw [habs, hsign]
  simp only [div, ha, hb, flush_of_off hf, divCore, ha', hb', hz, Bool.or_self, Bool.false_eq_true, if_false]
  split
  · next hza =>
    rw [signedUnits_eq_zero.2 ((isZero_iff a).1 hza), zero_mul, zero_mul]
    exact nearestEven_zero (isZero_zero _) hpos
  · refine nearestEven_round hr hf hpos ?_
    rw [signedUnits_eq]
    cases sign a <;> cases sign b <;> simp

omit hr in
/-- R236: an exact zero sum of operands that are not zeros is +0. -/
theorem Fp.add_of_exact_zero (h0 : signedUnits a ≠ 0) (hsum : signedUnits a + signedUnits b = 0) : add cfg a b = 0#32 := by
  have hz : isZero a = false := by rw [← Bool.not_eq_true, isZero_iff, ← signedUnits_eq_zero]; exact h0
  simp [add, ha, hb, flush_of_off hf, addCore, ha', hb', hz, hsum, zero]

omit hr in
/-- R237: an exact zero difference of operands that are not zeros is +0. -/
theorem Fp.sub_of_exact_zero (h0 : signedUnits a ≠ 0) (hdiff : signedUnits a - signedUnits b = 0) :
    sub cfg a b = 0#32 := by
  have hn := (finite_iff (b ^^^ 0x80000000#32)).2 (mag_flipSign b ▸ (finite_iff b).1 ⟨hb, hb'⟩)
  rw [sub_eq_add_neg, ← signedUnits_flipSign] at hdiff
  simpa [sub, ha, hb] using add_of_exact_zero hf ha ha' hn.1 hn.2 h0 hdiff

end Default

/-- Settles O23: the special cases are exact, and every other result is `round` of the exact one. -/
theorem arithmeticIsCorrectlyRounded : Obligations.ArithmeticIsCorrectlyRounded := by
  intro cfg a b hr hf v ha ha' hb hb'
  exact ⟨Fp.add_nearestEven hr hf ha ha' hb hb', Fp.sub_nearestEven hr hf ha ha' hb hb',
    Fp.mul_nearestEven hr hf ha ha' hb hb', Fp.div_nearestEven hr hf ha ha' hb hb',
    Fp.add_of_exact_zero hf ha ha' hb hb', Fp.sub_of_exact_zero hf ha ha' hb hb'⟩

end Sys2Proof.Machine
end

section
/-! FSQRT (O24): the root of the exact radicand lies between two neighbouring integers of units, and the half between them
lies on its side of every midpoint of two finite values near it. -/

namespace Sys2Proof.Machine

/-! ### The integer square root -/

/-- The bits decided so far bracket the root. -/
theorem Fp.isqrtBits_bracket {n k root : Nat} (hlo : root * root ≤ n) (hhi : n < (root + 2 ^ k) * (root + 2 ^ k)) :
    isqrtBits n k root * isqrtBits n k root ≤ n ∧ n < (isqrtBits n k root + 1) * (isqrtBits n k root + 1) := by
  induction k generalizing root with
  | zero => exact ⟨hlo, hhi⟩
  | succ k ih =>
    rw [isqrtBits]
    split
    · next h => exact ih h (by rwa [Nat.add_assoc, ← Nat.two_mul, ← Nat.pow_succ'])
    · next h => exact ih hlo (Nat.lt_of_not_le h)

theorem Fp.isqrt_eq_sqrt (n : Nat) : isqrt n = Nat.sqrt n := by
  refine Nat.eq_sqrt.2 (isqrtBits_bracket (by simp) ?_)
  have hn : n < 2 ^ (n.log2 + 1) := Nat.lt_log2_self
  rw [Nat.zero_add, ← pow_add]
  exact hn.trans_le (Nat.pow_le_pow_right (by decide) (by omega))

/-! ### The nearest magnitude to a root -/

/-- Where `x` is as near as `y` to `r` and a half, and that half is not midway between them, `x` is as near as `y` to every
real number between `r` and `r + 1`. -/
theorem Fp.nearest_root_of_nearest_half {r x y : Nat} {s : ℝ} (hlo : (r : ℝ) ≤ s) (hhi : s < r + 1)
    (hnear : ((x * 2 : Nat) - (2 * r + 1 : Nat) : Int).natAbs ≤ ((y * 2 : Nat) - (2 * r + 1 : Nat) : Int).natAbs)
    (htie : x + y ≠ 2 * r + 1) : |(x : ℝ) - s| ≤ |(y : ℝ) - s| := by
  rcases Nat.lt_trichotomy x y with h | rfl | h
  · have hsum : (2 * (r + 1) : ℝ) ≤ x + y := by norm_cast; omega
    have hxy : (x : ℝ) ≤ y := by exact_mod_cast h.le
    rw [abs_of_nonneg (a := (y : ℝ) - s) (by linarith)]
    exact abs_le.2 ⟨by linarith, by linarith⟩
  · exact le_rfl
  · have hsum : (x + y : ℝ) ≤ 2 * r := by norm_cast; omega
    have hxy : (y : ℝ) ≤ x := by exact_mod_cast h.le
    rw [abs_of_nonpos (a := (y : ℝ) - s) (by linarith)]
    exact abs_le.2 ⟨by linarith, by linarith⟩

/-- An odd magnitude has the smallest quantum. -/
theorem Fp.magUnits_lt_of_odd {k : Nat} (h : magUnits k % 2 = 1) : magUnits k < 2 ^ 24 := by
  obtain ⟨e, q, rfl, hn, hq⟩ := exists_significand k
  rw [magUnits_add hn hq.le] at h ⊢
  rcases Nat.eq_zero_or_pos e with rfl | he
  · simpa using hq
  · rw [← Nat.sub_add_cancel he, pow_succ, ← mul_assoc, Nat.mul_mod_left] at h
    cases h

/-- 2^74 is the value of a word. -/
theorem Fp.exists_signedUnits_two_pow : ∃ w, mag w < 0x7F800000 ∧ signedUnits w = 2 ^ 74 := by
  have hm : mag (pack false (51 * 2 ^ 23 + 2 ^ 23)) = 51 * 2 ^ 23 + 2 ^ 23 := mag_pack (by decide)
  refine ⟨_, hm.trans_lt (by decide), ?_⟩
  rw [signedUnits_eq, sign_pack, units_eq, hm, magUnits_add (.inr le_rfl) (by decide)]
  norm_num

/-- R240, R234: the half above the integer root `r`, rounded, is nearest to the real root, as far as `r` is no smaller than
2^74: an odd value, which alone could make that half a midpoint, is then far away. -/
theorem Fp.NearestEven.root {x : Word} {r num : Nat} {s : ℝ} (h : NearestEven x num 2)
    (hr : 2 ^ 74 ≤ r) (hlo : (r : ℝ) ≤ s) (hhi : s < r + 1) (hfit : 2 * num < (2 ^ 25 - 1) * 2 ^ 253 * 2)
    (hnum : num = 2 * r ∧ s = r ∨ num = 2 * r + 1) {w : Word} (hw : isNaN w = false) (hw' : isInf w = false) :
    2 ^ 74 ≤ units x ∧ |(signedUnits x : ℝ) - s| ≤ |(signedUnits w : ℝ) - s| := by
  have hpos : signedUnits x = units x := by
    rw [signedUnits_eq, h.sign (by omega), decide_eq_false (by omega)]; rfl
  have hnear : ∀ y : Word, mag y < 0x7F800000 → (signedUnits x * 2 - num).natAbs ≤ (signedUnits y * 2 - num).natAbs :=
    fun y hy => h.nearest (by simpa using hfit) y ((finite_iff y).2 hy).1 ((finite_iff y).2 hy).2
  obtain ⟨t, ht, htv⟩ := exists_signedUnits_two_pow
  have hbig := hnear t ht
  rw [hpos, htv] at hbig
  refine ⟨by omega, ?_⟩
  -- the value of `w` without its sign is no farther from the root
  have habs : |(units w : ℝ) - s| ≤ |(signedUnits w : ℝ) - s| := by
    rw [signedUnits_eq]
    split
    · have hu : (0 : ℝ) ≤ units w := Nat.cast_nonneg _
      have hs : 0 ≤ s := (Nat.cast_nonneg r).trans hlo
      push_cast
      rw [abs_of_nonpos (by linarith : -(units w : ℝ) - s ≤ 0)]
      exact abs_le.2 ⟨by linarith, by linarith⟩
    · exact le_rfl
  refine le_trans ?_ habs
  have hmw : mag (pack false (mag w)) = mag w := mag_pack (mag_lt w)
  have hvw : signedUnits (pack false (mag w)) = units w := by
    rw [signedUnits_eq, sign_pack, units_eq, hmw, ← units_eq]; rfl
  have hxw := hnear (pack false (mag w)) (hmw.trans_lt ((finite_iff w).1 ⟨hw, hw'⟩))
  rw [hpos, hvw] at hxw
  rw [hpos]
  rcases hnum with ⟨rfl, rfl⟩ | rfl
  · have : |((units x : ℤ) - r)| ≤ |((units w : ℤ) - r)| := by rw [Int.abs_eq_natAbs, Int.abs_eq_natAbs]; omega
    exact_mod_cast this
  · refine nearest_root_of_nearest_half hlo hhi hxw fun htie => ?_
    have hodd : ∀ y : Word, units y % 2 = 1 → units y < 2 ^ 24 := fun y hy => by
      rw [units_eq] at hy ⊢; exact magUnits_lt_of_odd hy
    rcases Nat.mod_two_eq_zero_or_one (units x) with hx | hx
    · have := hodd w (by omega); omega
    · have := hodd x hx; omega

/-! ### FSQRT -/

/-- R240 case 5: the root of a positive finite operand is rounded from the integer root, a half added when that is not
exact. -/
theorem Fp.sqrt_eq_round {cfg : Config} (hf : cfg.flushSubnormals = false) {a : Word} (ha : isNaN a = false)
    (ha' : isInf a = false) (hz : isZero a = false) (hs : sign a = false) :
    sqrt cfg a = round cfg false (2 * Nat.sqrt (units a * 2 ^ 149) +
      (if Nat.sqrt (units a * 2 ^ 149) * Nat.sqrt (units a * 2 ^ 149) = units a * 2 ^ 149 then 0 else 1)) 2 := by
  simp only [sqrt, sqrtCore, flush_of_off hf, ha, ha', hz, hs, Bool.false_eq_true, if_false, isqrt_eq_sqrt]

/-- The integer root of a positive finite operand is far from the subnormals and from the largest value. -/
theorem Fp.sqrt_units_bounds {a : Word} (hm : mag a < 0x7F800000) (hu : units a ≠ 0) :
    2 ^ 74 ≤ Nat.sqrt (units a * 2 ^ 149) ∧ Nat.sqrt (units a * 2 ^ 149) < 2 ^ 213 := by
  have hlt : units a < 2 ^ 23 * 2 ^ 254 := by rw [units_eq, ← magUnits_inf]; exact magUnits_strictMono hm
  rw [Nat.le_sqrt, Nat.sqrt_lt]
  omega

/-- The integer root, a half added when it is not exact, rounded as `sqrtCore` does: no subnormal, and nearest to the real
root. -/
theorem Fp.round_sqrt_nearest {cfg : Config} (hr : cfg.fpRound = .nearestEven) (hf : cfg.flushSubnormals = false) {n : Nat}
    (hlo : 2 ^ 74 ≤ Nat.sqrt n) (hhi : Nat.sqrt n < 2 ^ 213) {x w : Word}
    (hx : x = round cfg false (2 * Nat.sqrt n + (if Nat.sqrt n * Nat.sqrt n = n then 0 else 1)) 2)
    (hw : isNaN w = false) (hw' : isInf w = false) :
    isInf x = false ∧ 2 ^ 74 ≤ units x ∧ |(signedUnits x : ℝ) - Real.sqrt n| ≤ |(signedUnits w : ℝ) - Real.sqrt n| := by
  generalize hnum : 2 * Nat.sqrt n + (if Nat.sqrt n * Nat.sqrt n = n then 0 else 1) = num at hx
  have hcases : num = 2 * Nat.sqrt n ∧ Real.sqrt n = Nat.sqrt n ∨ num = 2 * Nat.sqrt n + 1 := by
    split at hnum
    · next hsq =>
      refine .inl ⟨hnum.symm, ?_⟩
      conv_lhs => rw [← hsq]
      rw [Nat.cast_mul, Real.sqrt_mul_self (Nat.cast_nonneg _)]
    · exact .inr hnum.symm
  have hfit : 2 * num < (2 ^ 25 - 1) * 2 ^ 253 * 2 := by omega
  have hnear : NearestEven x num 2 := hx ▸ nearestEven_round hr hf two_pos rfl
  exact ⟨(hnear.finite (by simpa using hfit)).2, hnear.root hlo Real.nat_sqrt_le_real_sqrt
    Real.real_sqrt_lt_nat_sqrt_succ hfit hcases hw hw'⟩

/-- R240: the root of a positive finite operand is no subnormal, and nearest to the real root. -/
theorem Fp.sqrt_nearest {cfg : Config} (hr : cfg.fpRound = .nearestEven) (hf : cfg.flushSubnormals = false) {a w : Word}
    (ha : isNaN a = false) (ha' : isInf a = false) (hz : isZero a = false) (hs : sign a = false) (hw : isNaN w = false)
    (hw' : isInf w = false) :
    isInf (sqrt cfg a) = false ∧ 2 ^ 74 ≤ units (sqrt cfg a) ∧
      |(signedUnits (sqrt cfg a) : ℝ) - Real.sqrt ((units a : ℝ) * 2 ^ 149)|
        ≤ |(signedUnits w : ℝ) - Real.sqrt ((units a : ℝ) * 2 ^ 149)| := by
  have hu : units a ≠ 0 := by rwa [← Bool.not_eq_true, isZero_iff] at hz
  obtain ⟨hlo, hhi⟩ := sqrt_units_bounds ((finite_iff a).1 ⟨ha, ha'⟩) hu
  have hreal : (units a : ℝ) * 2 ^ 149 = (units a * 2 ^ 149 : Nat) := by
    rw [Nat.cast_mul, Nat.cast_pow, Nat.cast_ofNat]
  rw [hreal]
  exact round_sqrt_nearest hr hf hlo hhi (sqrt_eq_round hf ha ha' hz hs) hw hw'

theorem Fp.flush_of_isZero_eq_false {cfg : Config} {v : Word} (h : isZero (flush cfg v) = false) : flush cfg v = v := by
  unfold flush at h ⊢
  split at h
  · rw [isZero_zero] at h; cases h
  · next hn => rw [if_neg hn]

theorem Fp.isSubnormal_iff (v : Word) : isSubnormal v = true ↔ 0 < mag v ∧ mag v < 2 ^ 23 := by
  simp only [isSubnormal, expo_eq, frac_eq, Bool.and_eq_true, decide_eq_true_eq]; omega

/-- R240: FSQRT keeps a zero. -/
theorem Fp.sqrt_zero (cfg : Config) {a : Word} (h : isZero a = true) : sqrt cfg a = a := by
  have hm : mag a = 0 := by simpa [isZero] using h
  have hsub : isSubnormal a = false := by rw [← Bool.not_eq_true, isSubnormal_iff]; omega
  have hnan : isNaN a = false := by rw [← Bool.not_eq_true, isNaN_iff]; omega
  simp [sqrt, sqrtCore, flush, hsub, hnan, h]

/-- R240: FSQRT of a negative value that is not a zero is QNAN. -/
theorem Fp.sqrt_negative {cfg : Config} {a : Word} (hnan : isNaN a = false) (hz : isZero (flush cfg a) = false)
    (hs : sign a = true) : sqrt cfg a = cfg.qnan := by
  have hflush := flush_of_isZero_eq_false hz
  rw [hflush] at hz
  simp [sqrt, sqrtCore, hflush, hnan, hz, hs]

/-- R240: FSQRT of +INF. -/
theorem Fp.sqrt_inf (cfg : Config) : sqrt cfg 0x7F800000#32 = 0x7F800000#32 := by
  have hflush : flush cfg 0x7F800000#32 = 0x7F800000#32 := by
    rw [flush, show isSubnormal 0x7F800000#32 = false by decide, Bool.and_false]; rfl
  rw [sqrt, hflush]; rfl

/-- Settles O24: the integer root brackets the real one, and rounding its half gives a value nearest to both. -/
theorem squareRootIsCorrectlyRounded : Obligations.SquareRootIsCorrectlyRounded := by
  intro cfg a w
  refine ⟨Fp.sqrt_zero cfg, Fp.sqrt_negative, Fp.sqrt_inf cfg, fun hr hf ha ha' hz hs hw hw' => ?_⟩
  obtain ⟨hinf, hbig, hnear⟩ := Fp.sqrt_nearest hr hf ha ha' hz hs hw hw'
  refine ⟨hinf, ?_, hnear⟩
  rw [← Bool.not_eq_true, Fp.isSubnormal_iff]
  rintro ⟨-, hsub⟩
  have hlt := Fp.magUnits_strictMono hsub
  have h23 : Fp.magUnits (2 ^ 23) = 2 ^ 23 := by decide
  rw [← Fp.units_eq, h23] at hlt
  omega

end Sys2Proof.Machine
end

section
/-! The bytes of words: what is read byte by byte, or written back as a merged word, byte for byte. -/

namespace Sys2Proof.Machine

/-! ### The bytes of a word -/

theorem Memory.byteOf_getLsbD (v : Word) (i j : Nat) :
    (byteOf v i).getLsbD j = (decide (j < 8) && v.getLsbD (8 * i + j)) := by
  simp [byteOf, BitVec.getLsbD_extractLsb']

/-- Words with the same four bytes are the same. -/
theorem Memory.word_ext {v w : Word} (h : ∀ i < 4, byteOf v i = byteOf w i) : v = w := by
  refine BitVec.eq_of_getLsbD_eq fun b hb => ?_
  have := congrArg (BitVec.getLsbD · (b % 8)) (h (b / 8) (by omega))
  simpa only [byteOf_getLsbD, Nat.div_add_mod, Nat.mod_lt _ (show 8 > 0 by decide), decide_true, Bool.true_and] using this

/-- Byte `i` of a value moved down by `k` bytes (R64). -/
theorem Memory.byteOf_shiftRight (v : Word) (k i : Nat) : byteOf (v >>> (8 * k)) i = byteOf v (k + i) := by
  refine BitVec.eq_of_getLsbD_eq fun j hj => ?_
  simp only [byteOf_getLsbD, BitVec.getLsbD_ushiftRight]
  congr 2; ring

theorem Memory.byteOf_or (v w : Word) (i : Nat) : byteOf (v ||| w) i = byteOf v i ||| byteOf w i := by
  simp [byteOf, BitVec.extractLsb'_or]

/-- Byte `i` of a byte put at place `k` of a word. -/
theorem Memory.byteOf_shiftLeft_byte (b : Byte) {k i : Nat} (hi : i < 4) :
    byteOf (b.setWidth 32 <<< (8 * k)) i = if i = k then b else 0#8 := by
  refine BitVec.eq_of_getLsbD_eq fun j hj => ?_
  have hb : 8 * i + j < 32 := by omega
  simp only [byteOf_getLsbD, BitVec.getLsbD_shiftLeft, BitVec.getLsbD_setWidth, hj, hb, decide_true, Bool.true_and]
  rcases Nat.lt_trichotomy i k with h | rfl | h
  · rw [if_neg h.ne, decide_eq_true (by omega : 8 * i + j < 8 * k)]; simp
  · rw [if_pos rfl, decide_eq_false (by omega : ¬ 8 * i + j < 8 * i), Nat.add_sub_cancel_left,
      decide_eq_true (by omega : j < 32)]; simp
  · rw [if_neg h.ne', BitVec.getLsbD_of_ge b _ (by omega)]; simp

/-- Byte `i` of the little-endian word at an address (R62). -/
theorem Memory.byteOf_load_word (m : Memory) (a : Nat) {i : Nat} (hi : i < 4) :
    byteOf (m.load a .word) i = m.get (a + i) := by
  refine BitVec.eq_of_getLsbD_eq fun j hj => ?_
  simp only [byteOf_getLsbD, load, BitVec.getLsbD_append]
  obtain rfl | rfl | rfl | rfl : i = 0 ∨ i = 1 ∨ i = 2 ∨ i = 3 := by omega
  · simp [hj]
  · simp [hj]
  · simp [hj, show ¬ 16 + j < 8 by omega, show ¬ 16 + j - 8 < 8 by omega, show 16 + j - 8 - 8 = j by omega]
  · simp [hj, show ¬ 24 + j < 8 by omega, show ¬ 24 + j - 8 < 8 by omega, show ¬ 24 + j - 8 - 8 < 8 by omega,
      show 24 + j - 8 - 8 - 8 = j by omega]

/-- Byte `i` of the little-endian halfword at an address, zero-extended (R62, R63). -/
theorem Memory.byteOf_load_half (m : Memory) (a : Nat) {i : Nat} (hi : i < 4) :
    byteOf (m.load a .half) i = if i < 2 then m.get (a + i) else 0#8 := by
  refine BitVec.eq_of_getLsbD_eq fun j hj => ?_
  simp only [byteOf_getLsbD, load, BitVec.getLsbD_setWidth, BitVec.getLsbD_append]
  obtain rfl | rfl | rfl | rfl : i = 0 ∨ i = 1 ∨ i = 2 ∨ i = 3 := by omega
  · simp [hj, show j < 32 by omega]
  · simp [hj, show 8 + j < 32 by omega]
  · simp [show ¬ 16 + j < 8 by omega, BitVec.getLsbD_of_ge (m.get (a + 1)) (16 + j - 8) (by omega)]
  · simp [show ¬ 24 + j < 8 by omega, BitVec.getLsbD_of_ge (m.get (a + 1)) (24 + j - 8) (by omega)]

/-- The word a read-modify-write writes back: the piece's bytes are the value's, the others are as read (R68). -/
theorem byteOf_mergeWord (old v : Word) {at_ off width i : Nat} (hw : at_ + width ≤ 4) (hi : i < 4) :
    Memory.byteOf (mergeWord old v at_ off width) i =
      if at_ ≤ i ∧ i < at_ + width then Memory.byteOf v (off + (i - at_)) else Memory.byteOf old i := by
  refine BitVec.eq_of_getLsbD_eq fun j hj => ?_
  have hb : 8 * i + j < 32 := by omega
  -- bit `j` of byte `i` is in the mask exactly when byte `i` is in the piece
  have hmask : (decide (8 * i + j < 32) && !decide (8 * i + j < 8 * at_) &&
      decide (32 - 8 * width + (8 * i + j - 8 * at_) < 32)) = decide (at_ ≤ i ∧ i < at_ + width) := by
    rw [Bool.eq_iff_iff]; simp only [Bool.and_eq_true, Bool.not_eq_true', decide_eq_true_eq, decide_eq_false_iff_not]; omega
  simp only [Memory.byteOf_getLsbD, mergeWord, BitVec.getLsbD_or, BitVec.getLsbD_and, BitVec.getLsbD_not,
    BitVec.getLsbD_shiftLeft, BitVec.getLsbD_ushiftRight, BitVec.getLsbD_allOnes, hmask]
  split
  · next h =>
    have hplace : 8 * off + (8 * i + j - 8 * at_) = 8 * (off + (i - at_)) + j := by omega
    simp [Memory.byteOf_getLsbD, hplace, h, hb, show ¬ 8 * i + j < 8 * at_ by omega]
  · next h => simp [Memory.byteOf_getLsbD, h, hb]

/-! ### The bytes of a misaligned load -/

/-- The order in which the bytes of a load were read does not matter (R68). -/
theorem assembleBytes_perm {l l' : List (Nat × Byte)} (h : l.Perm l') : assembleBytes l = assembleBytes l' :=
  h.foldl_eq' (fun x _ y _ z => by simp only [BitVec.or_assoc, BitVec.or_comm (x.2.setWidth 32 <<< (8 * x.1))]) 0#32

/-- The bytes at the places of a halfword or word make the value there (R62, R67). -/
theorem assembleBytes_range (m : Memory) (a : Nat) {n : Size} (hn : n ≠ .byte) :
    assembleBytes ((List.range n.bytes).map fun i => (i, m.get (a + i))) = m.load a n := by
  refine Memory.word_ext fun i hi => ?_
  have hzero : Memory.byteOf 0#32 i = 0#8 := by simp [Memory.byteOf]
  cases n with
  | byte => exact absurd rfl hn
  | half =>
    simp only [assembleBytes, Size.bytes, show List.range 2 = [0, 1] from rfl, List.map, List.foldl, Memory.byteOf_or,
      Memory.byteOf_shiftLeft_byte _ hi, Memory.byteOf_load_half m a hi, hzero]
    obtain rfl | rfl | rfl | rfl : i = 0 ∨ i = 1 ∨ i = 2 ∨ i = 3 := by omega
    all_goals simp
  | word =>
    simp only [assembleBytes, Size.bytes, show List.range 4 = [0, 1, 2, 3] from rfl, List.map, List.foldl, Memory.byteOf_or,
      Memory.byteOf_shiftLeft_byte _ hi, Memory.byteOf_load_word m a hi, hzero]
    obtain rfl | rfl | rfl | rfl : i = 0 ∨ i = 1 ∨ i = 2 ∨ i = 3 := by omega
    all_goals simp

end Sys2Proof.Machine
end

section
/-! A unit alone (O42): each access of its instruction, made in events one at a time and in any order the choices pick,
leaves what the access performed as a whole leaves. -/

namespace Sys2Proof.Machine

/-! ### Runs of one unit -/

/-- Some number of access events of unit `u` lead from one context to another. -/
def Reaches (cfg : Config) (u : Nat) (p q : Ctx × Nat) : Prop := ∃ k, accessRun cfg u k p = .next q

theorem Reaches.refl (cfg : Config) (u : Nat) (p : Ctx × Nat) : Reaches cfg u p p := ⟨0, rfl⟩

theorem Reaches.head {cfg : Config} {u : Nat} {p q r : Ctx × Nat} (h : accessStep cfg p.1 p.2 u = .next q)
    (hr : Reaches cfg u q r) : Reaches cfg u p r := by
  obtain ⟨k, hk⟩ := hr
  exact ⟨k + 1, by simpa only [accessRun, h] using hk⟩

theorem Reaches.trans {cfg : Config} {u : Nat} {p q r : Ctx × Nat} (h : Reaches cfg u p q) (hr : Reaches cfg u q r) :
    Reaches cfg u p r := by
  obtain ⟨k, hk⟩ := h
  induction k generalizing p with
  | zero => cases hk; exact hr
  | succ k ih =>
    simp only [accessRun] at hk
    split at hk
    · next p' hp => exact .head hp (ih hk)
    · cases hk
    · cases hk

/-! ### The unit beside what its instruction works on -/

/-- The context with unit `u` in this state. -/
def Ctx.withUnit (c : Ctx) (u : Nat) (x : ExecUnit) : Ctx := { c with vm := c.vm.setUnit u x }

theorem Ctx.withUnit_self {c : Ctx} {u : Nat} (hu : u < c.vm.tick.units.length) : c.withUnit u (c.vm.unit u) = c := by
  simp [Ctx.withUnit, VM.setUnit, VM.unit, hu]

theorem Ctx.withUnit_withUnit (c : Ctx) (u : Nat) (x y : ExecUnit) : (c.withUnit u x).withUnit u y = c.withUnit u y := by
  simp [Ctx.withUnit, VM.setUnit]

theorem Ctx.withUnit_unit {c : Ctx} {u : Nat} (hu : u < c.vm.tick.units.length) (x : ExecUnit) :
    (c.withUnit u x).vm.unit u = x := c.vm.unit_setUnit u x hu

theorem VM.setReg_setUnit (vm : VM) (u : Nat) (x : ExecUnit) (r : RegIx) (v : Word) :
    (vm.setUnit u x).setReg r v = (vm.setReg r v).setUnit u x := by unfold VM.setReg; split <;> rfl

theorem VM.appendConsole_setUnit (cfg : Config) (vm : VM) (u : Nat) (x : ExecUnit) (b : Byte) :
    (vm.setUnit u x).appendConsole cfg b = (vm.appendConsole cfg b).setUnit u x := by
  by_cases h : vm.consoleLen < cfg.consoleCap
  · simp only [VM.appendConsole, VM.setUnit_consoleLen, h, if_true]; rfl
  · simp only [VM.appendConsole, VM.setUnit_consoleLen, h, if_false]

theorem memRead_withUnit {cfg : Config} {c c' : Ctx} {a : Word} {n : Size} {v : Word}
    (h : memRead cfg c a n = .ok (v, c')) (u : Nat) (x : ExecUnit) :
    memRead cfg (c.withUnit u x) a n = .ok (v, c'.withUnit u x) := by
  rcases memRead_ok h with ⟨hk, rfl, rfl⟩ | ⟨hk, rfl, rfl⟩ <;> simp only [memRead, hk] <;> rfl

theorem memWrite_withUnit {cfg : Config} {c c' : Ctx} {a : Word} {n : Size} {v : Word}
    (h : memWrite cfg c a n v = .ok c') (u : Nat) (x : ExecUnit) :
    memWrite cfg (c.withUnit u x) a n v = .ok (c'.withUnit u x) := by
  rcases memWrite_ok h with ⟨hk, rfl⟩ | ⟨hk, rfl⟩ <;> simp only [memWrite, hk] <;> rfl

/-- An access neither sees nor changes the unit that makes it (R41). -/
theorem Event.perform_withUnit {cfg : Config} {e : Event} {c c' : Ctx} {v : Word} (h : e.perform cfg c = .ok (v, c'))
    (u : Nat) (x : ExecUnit) : e.perform cfg (c.withUnit u x) = .ok (v, c'.withUnit u x) := by
  cases e
  case load a n => exact memRead_withUnit h u x
  case store a n w =>
    simp only [Event.perform] at h ⊢
    split at h
    · next hw => cases h; rw [memWrite_withUnit hw]
    · cases h
  case writeReg r w => cases h; simp only [Event.perform, Ctx.withUnit, VM.setReg_setUnit]
  case append b => cases h; simp only [Event.perform, Ctx.withUnit, VM.appendConsole_setUnit]
  all_goals cases h; rfl

/-! ### One event of an access -/

/-- The unit after an event of its access: the answer is added to those it has, or a part of the access is done. -/
def ExecUnit.progress (x : ExecUnit) : Progress → ExecUnit
  | .complete v => { x with got := x.got ++ [v], part := .none }
  | .partly p => { x with part := p }

theorem ExecUnit.progress_progress (x : ExecUnit) (p : Part) (q : Progress) :
    (x.progress (.partly p)).progress q = x.progress q := by cases q <;> rfl

theorem accessStep_of_event {cfg : Config} {u : Nat} {x : ExecUnit} {e : Event} {k : Word → Act} {c d : Ctx} {n n' : Nat}
    {p : Progress} (hu : u < c.vm.tick.units.length) (hx : x.rest cfg = .op e k)
    (h : accessEvent cfg e (c.withUnit u x) x.part n = .ok (p, d.withUnit u x, n')) :
    accessStep cfg (c.withUnit u x) n u = .next (d.withUnit u (x.progress p), n') := by
  unfold ExecUnit.rest at hx
  simp only [accessStep, Ctx.withUnit_unit hu, hx, h]
  cases p <;> exact congrArg (fun y => Host.Outcome.next (y, n')) (d.withUnit_withUnit u x _)

theorem Reaches.of_event {cfg : Config} {u : Nat} {x : ExecUnit} {e : Event} {k : Word → Act} {c d : Ctx} {n n' : Nat}
    {p : Progress} (hu : u < c.vm.tick.units.length) (hx : x.rest cfg = .op e k)
    (h : accessEvent cfg e (c.withUnit u x) x.part n = .ok (p, d.withUnit u x, n')) :
    Reaches cfg u (c.withUnit u x, n) (d.withUnit u (x.progress p), n') :=
  .head (accessStep_of_event hu hx h) (.refl ..)

/-! ### A misaligned load, byte by byte -/

/-- One byte of a load, where `todo` are the bytes still to read: the load is complete, or one byte fewer is left. -/
theorem loadPiece_cases (c : Ctx) (a : Nat) {todo : List Nat} (hne : todo ≠ []) (done : List (Nat × Byte))
    (choice : Nat) : ∃ off rest, (off :: rest).Perm todo ∧
      (rest = [] ∧ loadPiece c a todo done choice = .complete (assembleBytes ((off, c.vm.mem.get (a + off)) :: done)) ∨
      rest ≠ [] ∧ loadPiece c a todo done choice = .partly (.loading rest ((off, c.vm.mem.get (a + off)) :: done))) := by
  refine ⟨(chooseFrom todo choice).1, (chooseFrom todo choice).2, chooseFrom_perm hne choice, ?_⟩
  unfold loadPiece
  rcases chooseFrom todo choice with ⟨off, rest⟩
  cases rest <;> simp

/-- A load whose next event reads one of the bytes `todo`, the others being read already, ends with the bytes in their
places. -/
theorem load_reaches {cfg : Config} {u : Nat} {a : Word} {n : Size} {k : Word → Act} {c : Ctx}
    (hu : u < c.vm.tick.units.length) {all : List (Nat × Byte)} {len : Nat} {todo : List Nat} {done : List (Nat × Byte)}
    {x : ExecUnit} {s : Nat} (hne : todo ≠ []) (hlen : todo.length ≤ len) (hx : x.rest cfg = .op (.load a n) k)
    (hev : accessEvent cfg (.load a n) (c.withUnit u x) x.part s =
      .ok (loadPiece c a.toNat todo done (Config.schedule s), c.withUnit u x, s + 1))
    (hall : ((todo.map fun i => (i, c.vm.mem.get (a.toNat + i))) ++ done).Perm all) :
    ∃ s', Reaches cfg u (c.withUnit u x, s) (c.withUnit u (x.progress (.complete (assembleBytes all))), s') := by
  induction len generalizing todo done x s with
  | zero => exact absurd (List.length_eq_zero_iff.1 (Nat.le_zero.1 hlen)) hne
  | succ len ih =>
    obtain ⟨off, rest, hp, hl⟩ := loadPiece_cases c a.toNat hne done (Config.schedule s)
    have hall' : ((rest.map fun i => (i, c.vm.mem.get (a.toNat + i))) ++
        (off, c.vm.mem.get (a.toNat + off)) :: done).Perm all :=
      List.perm_middle.trans (((hp.map _).append_right done).trans hall)
    rcases hl with ⟨rfl, hl⟩ | ⟨hrest, hl⟩
    · rw [hl] at hev
      rw [← assembleBytes_perm hall']
      exact ⟨_, .of_event hu hx hev⟩
    · rw [hl] at hev
      have hlen' : rest.length ≤ len := by have := hp.length_eq; simp only [List.length_cons] at this; omega
      obtain ⟨s', hs'⟩ := ih (x := x.progress (.partly (.loading rest _))) (s := s + 1) hrest hlen' hx rfl hall'
      exact ⟨s', (Reaches.of_event hu hx hev).trans (x.progress_progress _ _ ▸ hs')⟩

/-! ### A plain store, piece by piece -/

/-- The bytes `off .. off+width-1` of a store of `v` at `a` are written, and no other byte (R64, R68). -/
def Memory.Wrote (m m' : Memory) (v : Word) (a off width : Nat) : Prop :=
  m'.wf = true ∧ ∀ i, m'.get i = if a + off ≤ i ∧ i < a + off + width then byteOf v (i - a) else m.get i

/-- A piece of a store of width `n` at `a`: inside it, one byte, or two in one aligned halfword. -/
def PieceOk (a : Nat) (n : Size) (p : Nat × Nat) : Prop :=
  p.1 + p.2 ≤ n.bytes ∧ (p.2 = 1 ∨ p.2 = 2 ∧ (a + p.1) % 2 = 0)

/-- The pieces of a plain store that is not one aligned word, the whole of it. -/
theorem storePieces_ok {a : Nat} {n : Size} (h : isMisaligned a n = true ∨ n ≠ .word) :
    storePieces a n ≠ [] ∧ (∀ p ∈ storePieces a n, PieceOk a n p) ∧
      ∀ i, a ≤ i → i < a + n.bytes → ∃ p ∈ storePieces a n, a + p.1 ≤ i ∧ i < a + p.1 + p.2 := by
  unfold storePieces
  split
  · refine ⟨by cases n <;> simp [Size.bytes], fun p hp => ?_, fun i hi hi' => ?_⟩
    · obtain ⟨i, hi, rfl⟩ := List.mem_map.1 hp
      exact ⟨List.mem_range.1 hi, .inl rfl⟩
    · exact ⟨(i - a, 1), List.mem_map.2 ⟨i - a, List.mem_range.2 (by omega), rfl⟩, by simp; omega, by simp; omega⟩
  · next hal =>
    refine ⟨by simp, fun p hp => ?_, fun i hi hi' => ⟨(0, n.bytes), by simp, hi, hi'⟩⟩
    obtain rfl := List.mem_singleton.1 hp
    refine ⟨by simp, ?_⟩
    cases n with
    | byte => exact .inl rfl
    | half => exact .inr ⟨rfl, by simpa [isMisaligned, Size.bytes] using hal⟩
    | word => exact absurd rfl (h.resolve_left hal)

theorem PieceOk.sizeOfWidth_bytes {a : Nat} {n : Size} {p : Nat × Nat} (h : PieceOk a n p) :
    (sizeOfWidth p.2).bytes = p.2 := by
  rcases h.2 with h | ⟨h, -⟩ <;> rw [h] <;> rfl

/-- A piece written at once. -/
theorem Memory.wrote_store {m : Memory} (hw : m.wf = true) (v : Word) {a : Nat} {n : Size} {off width : Nat}
    (hp : PieceOk a n (off, width)) : Wrote m (m.store (a + off) (sizeOfWidth width) (v >>> (8 * off))) v a off width := by
  have hb := hp.sizeOfWidth_bytes
  refine ⟨wf_store hw _ _ _, fun i => ?_⟩
  split
  · next h =>
    obtain ⟨j, rfl⟩ := Nat.exists_eq_add_of_le h.1
    rw [get_store_inside hw _ _ (by rw [hb]; omega), byteOf_shiftRight]
    congr 1; omega
  · exact get_store_of_outside hw _ (by rw [hb]; omega)

/-- A piece written back as part of its containing aligned word, which was read before (R68). -/
theorem Memory.wrote_merge {m : Memory} (hw : m.wf = true) (v : Word) {a : Nat} {n : Size} {off width : Nat}
    (hp : PieceOk a n (off, width)) :
    Wrote m (m.store ((a + off) / 4 * 4) .word (mergeWord (m.load ((a + off) / 4 * 4) .word) v
      (a + off - (a + off) / 4 * 4) off width)) v a off width := by
  have hfit : a + off - (a + off) / 4 * 4 + width ≤ 4 := by
    rcases hp.2 with h | ⟨h, h'⟩ <;> simp only at h <;> omega
  generalize hat : (a + off) / 4 * 4 = at_ at hfit ⊢
  refine ⟨wf_store hw _ _ _, fun i => ?_⟩
  by_cases hi : at_ ≤ i ∧ i < at_ + 4
  · obtain ⟨j, rfl⟩ := Nat.exists_eq_add_of_le hi.1
    have hj : j < 4 := by omega
    rw [get_store_inside (n := .word) hw _ _ hj, byteOf_mergeWord _ _ hfit hj, byteOf_load_word _ _ hj]
    by_cases h : a + off ≤ at_ + j ∧ at_ + j < a + off + width
    · rw [if_pos h, if_pos (by omega)]; congr 1; omega
    · rw [if_neg h, if_neg (by omega)]
  · rw [get_store_of_outside (n := .word) hw _ (by simp only [Size.bytes]; omega), if_neg (by omega)]

/-- The context with this memory. -/
def Ctx.withMem (c : Ctx) (m : Memory) : Ctx := { c with vm := { c.vm with mem := m } }

/-- One event of a store, where `todo` are the pieces still to write: a piece is written, or its word is read first. -/
theorem storePiece_cases (c : Ctx) (a : Nat) (v : Word) {todo : List (Nat × Nat)} (hne : todo ≠ [])
    (choice readFirst : Nat) : ∃ off width rest, ((off, width) :: rest).Perm todo ∧
      (storePiece c a v todo choice readFirst =
          (afterPieces rest, { c with vm := c.vm.storeMem (a + off) (sizeOfWidth width) (v >>> (8 * off)) }) ∨
        storePiece c a v todo choice readFirst =
          (.partly (.merging rest off width (c.vm.mem.load ((a + off) / 4 * 4) .word)), c)) := by
  have hp := chooseFrom_perm hne choice
  unfold storePiece
  rcases hc : chooseFrom todo choice with ⟨⟨off, width⟩, rest⟩
  rw [hc] at hp
  refine ⟨off, width, rest, hp, ?_⟩
  by_cases h : readFirst % 2 = 1
  · exact .inr (if_pos h)
  · exact .inl (if_neg h)

section Store
variable {cfg : Config} {u : Nat} {a : Word} {n : Size} {v : Word} {k : Word → Act} {c : Ctx}
  (hu : u < c.vm.tick.units.length)
include hu

/-- Alone, a store whose next event is about the pieces `todo` writes one of them, at once or by a read-modify-write. -/
theorem store_piece_reaches {m : Memory} (hw : m.wf = true) {todo : List (Nat × Nat)} (hne : todo ≠ [])
    (hok : ∀ p ∈ todo, PieceOk a.toNat n p) {x : ExecUnit} {s : Nat} (hx : x.rest cfg = .op (.store a n v) k)
    (hev : ∀ d i, accessEvent cfg (.store a n v) (d : Ctx) x.part i =
      .ok ((storePiece d a.toNat v todo (Config.schedule i) (Config.schedule (i + 1))).1,
        (storePiece d a.toNat v todo (Config.schedule i) (Config.schedule (i + 1))).2, i + 2)) :
    ∃ off width rest m' s', ((off, width) :: rest).Perm todo ∧ m.Wrote m' v a.toNat off width ∧
      Reaches cfg u ((c.withMem m).withUnit u x, s) ((c.withMem m').withUnit u (x.progress (afterPieces rest)), s') := by
  obtain ⟨off, width, rest, hp, hpiece⟩ := storePiece_cases ((c.withMem m).withUnit u x) a.toNat v hne
    (Config.schedule s) (Config.schedule (s + 1))
  have hpok : PieceOk a.toNat n (off, width) := hok _ (hp.mem_iff.1 List.mem_cons_self)
  have hevent := hev ((c.withMem m).withUnit u x) s
  rcases hpiece with hpiece | hpiece <;> rw [hpiece] at hevent
  · exact ⟨off, width, rest, _, s + 2, hp, Memory.wrote_store hw v hpok, .of_event (c := c.withMem m)
      (d := c.withMem (m.store (a.toNat + off) (sizeOfWidth width) (v >>> (8 * off)))) hu hx hevent⟩
  · refine ⟨off, width, rest, _, s + 2, hp, Memory.wrote_merge hw v hpok,
      (Reaches.of_event (c := c.withMem m) (d := c.withMem m) hu hx hevent).trans ?_⟩
    rw [← x.progress_progress]
    exact .of_event (c := c.withMem m) hu hx rfl

/-- Alone, a store whose pieces still to write are `todo`, its other bytes being written, ends with every byte written. -/
theorem store_reaches {target : Memory} (ht : target.wf = true)
    (hin : ∀ i < n.bytes, target.get (a.toNat + i) = Memory.byteOf v i) {len : Nat} {m : Memory} (hw : m.wf = true)
    {todo : List (Nat × Nat)} (hne : todo ≠ []) (hlen : todo.length ≤ len) (hok : ∀ p ∈ todo, PieceOk a.toNat n p)
    (hleft : ∀ i, m.get i = target.get i ∨ ∃ p ∈ todo, a.toNat + p.1 ≤ i ∧ i < a.toNat + p.1 + p.2)
    {x : ExecUnit} {s : Nat} (hx : x.rest cfg = .op (.store a n v) k)
    (hev : ∀ d i, accessEvent cfg (.store a n v) (d : Ctx) x.part i =
      .ok ((storePiece d a.toNat v todo (Config.schedule i) (Config.schedule (i + 1))).1,
        (storePiece d a.toNat v todo (Config.schedule i) (Config.schedule (i + 1))).2, i + 2)) :
    ∃ s', Reaches cfg u ((c.withMem m).withUnit u x, s)
      ((c.withMem target).withUnit u (x.progress (.complete 0#32)), s') := by
  induction len generalizing todo m x s with
  | zero => exact absurd (List.length_eq_zero_iff.1 (Nat.le_zero.1 hlen)) hne
  | succ len ih =>
    obtain ⟨off, width, rest, m', s', hp, ⟨hw', hget⟩, hr⟩ := store_piece_reaches hu hw hne hok (s := s) hx hev
    have hfit : off + width ≤ n.bytes := (hok _ (hp.mem_iff.1 List.mem_cons_self)).1
    have hleft' : ∀ i, m'.get i = target.get i ∨ ∃ p ∈ rest, a.toNat + p.1 ≤ i ∧ i < a.toNat + p.1 + p.2 := by
      intro i
      rw [hget]
      split
      · next h =>
        rw [← hin (i - a.toNat) (by omega), show a.toNat + (i - a.toNat) = i by omega]
        exact .inl rfl
      · next h =>
        refine (hleft i).imp_right fun ⟨p, hpm, hpi⟩ => ?_
        rcases List.mem_cons.1 (hp.mem_iff.2 hpm) with rfl | hpr
        · exact absurd hpi h
        · exact ⟨p, hpr, hpi⟩
    by_cases hrest : rest = []
    · subst hrest
      rw [Memory.ext_get hw' ht fun i => (hleft' i).resolve_right (by simp)] at hr
      exact ⟨s', hr⟩
    · have hafter : afterPieces rest = .partly (.storing rest) := by simp [afterPieces, hrest]
      have hlen' : rest.length ≤ len := by have := hp.length_eq; simp only [List.length_cons] at this; omega
      obtain ⟨s'', hs⟩ := ih (x := x.progress (.partly (.storing rest))) (s := s') hw' hrest hlen'
        (fun p hpr => hok p (hp.mem_iff.1 (List.mem_cons_of_mem _ hpr))) hleft' hx (fun _ _ => rfl)
      rw [hafter] at hr
      exact ⟨s'', hr.trans (x.progress_progress _ _ ▸ hs)⟩

end Store

/-! ### One access, then a whole instruction -/

section Access
variable {cfg : Config} {u : Nat} {x : ExecUnit} {k : Word → Act} {c c' : Ctx} {v : Word} {s : Nat}
  (hu : u < c.vm.tick.units.length) (hpart : x.part = .none)
include hu hpart

theorem load_alone {a : Word} {n : Size} (hx : x.rest cfg = .op (.load a n) k) (h : memRead cfg c a n = .ok (v, c')) :
    ∃ s', Reaches cfg u (c.withUnit u x, s) (c'.withUnit u (x.progress (.complete v)), s') := by
  by_cases hp : readKind cfg a.toNat n = .plain ∧ isMisaligned a.toNat n = true
  · rcases memRead_ok h with ⟨-, rfl, rfl⟩ | ⟨hk, -, -⟩
    · have hn : n ≠ .byte := by rintro rfl; simp [isMisaligned, Size.bytes, Nat.mod_one] at hp
      rw [← assembleBytes_range c'.vm.mem a.toNat hn]
      refine load_reaches hu (todo := List.range n.bytes) (done := []) (by cases n <;> simp [Size.bytes]) le_rfl hx ?_
        (by simp)
      simp only [accessEvent, loadEvent, hpart, hp, decide_true, Bool.and_self, if_true]
      rfl
    · rw [hk] at hp; cases hp.1
  · refine ⟨s, .of_event hu hx ?_⟩
    have hp' : ¬ (decide (readKind cfg a.toNat n = .plain) && isMisaligned a.toNat n) = true := by
      simpa [-not_and] using hp
    simp only [accessEvent, loadEvent, hpart, if_neg hp', memRead_withUnit h]

theorem store_alone {a : Word} {n : Size} {w : Word} (hw : c.vm.mem.wf = true) (hx : x.rest cfg = .op (.store a n w) k)
    (h : memWrite cfg c a n w = .ok c') :
    ∃ s', Reaches cfg u (c.withUnit u x, s) (c'.withUnit u (x.progress (.complete 0#32)), s') := by
  by_cases hp : writeKind cfg a.toNat n = .plain ∧ (isMisaligned a.toNat n = true ∨ n ≠ .word)
  · rcases memWrite_ok h with ⟨-, rfl⟩ | ⟨hk, -⟩
    · obtain ⟨hne, hok, hcover⟩ := storePieces_ok hp.2
      refine store_reaches hu (m := c.vm.mem) (Memory.wf_store hw a.toNat n w)
        (fun i hi => Memory.get_store_inside hw a.toNat w hi) hw hne le_rfl hok (fun i => ?_) hx fun d i => ?_
      · by_cases hi : a.toNat ≤ i ∧ i < a.toNat + n.bytes
        · exact .inr (hcover i hi.1 hi.2)
        · exact .inl (Memory.get_store_of_outside hw w (by omega)).symm
      · have hp' : (decide (writeKind cfg a.toNat n = .plain) && (isMisaligned a.toNat n || decide (n ≠ .word))) = true := by
          simpa using hp
        simp only [accessEvent, storeEvent, hpart, if_pos hp']
    · rw [hk] at hp; cases hp.1
  · refine ⟨s, .of_event hu hx ?_⟩
    have hp' : ¬ (decide (writeKind cfg a.toNat n = .plain) && (isMisaligned a.toNat n || decide (n ≠ .word))) = true := by
      simpa [-not_and] using hp
    simp only [accessEvent, storeEvent, hpart, if_neg hp', memWrite_withUnit h]

/-- R68, R74: alone, every access but a choice ends, in one event or several, as it does when it is performed whole. -/
theorem access_alone {e : Event} (hc : e ≠ .choose) (hw : c.vm.mem.wf = true) (hx : x.rest cfg = .op e k)
    (h : e.perform cfg c = .ok (v, c')) :
    ∃ s', Reaches cfg u (c.withUnit u x, s) (c'.withUnit u (x.progress (.complete v)), s') := by
  have hwhole := e.perform_withUnit h u x
  cases e
  case load a n => exact load_alone hu hpart hx h
  case store a n w =>
    simp only [Event.perform] at h
    split at h
    · next hm => cases h; exact store_alone hu hpart hw hx hm
    · cases h
  case choose => exact absurd rfl hc
  all_goals exact ⟨s, .of_event hu hx (by simp only [accessEvent, hwhole])⟩

end Access

/-- Whatever its choices answer, nothing of the instruction is refused. -/
inductive Act.NeverRefused (cfg : Config) : Act → Ctx → Prop where
  | ret (next : Word) (stop : Bool) (c : Ctx) : NeverRefused cfg (.ret next stop) c
  | op {e : Event} {k : Word → Act} {c c' : Ctx} {v : Word} (he : e ≠ .choose) (hp : e.perform cfg c = .ok (v, c'))
      (h : NeverRefused cfg (k v) c') : NeverRefused cfg (.op e k) c
  | choose {k : Word → Act} {c : Ctx} (h : ∀ v, NeverRefused cfg (k v) c) : NeverRefused cfg (.op .choose k) c

/-- What a unit has left after one more answer. -/
theorem Act.after_append (a : Act) (l : List Word) (v : Word) {e : Event} {k : Word → Act} (h : a.after l = .op e k) :
    a.after (l ++ [v]) = k v := by
  induction l generalizing a with
  | nil => simp only [after] at h; subst h; simp only [List.nil_append, after]
  | cons w l ih =>
    cases a with
    | ret next stop => simp [after] at h
    | op e' k' => exact ih (k' w) h

theorem ExecUnit.rest_complete {cfg : Config} {x : ExecUnit} {e : Event} {k : Word → Act} (h : x.rest cfg = .op e k)
    (v : Word) : (x.progress (.complete v)).rest cfg = k v := Act.after_append _ _ _ h

/-- R307: a unit alone performs its instruction to an end, which is one of those the choices allow. -/
theorem Act.NeverRefused.reaches {cfg : Config} {a : Act} {c : Ctx} (h : a.NeverRefused cfg c) {u : Nat} {x : ExecUnit}
    {s : Nat} (hu : u < c.vm.tick.units.length) (hw : c.vm.mem.wf = true) (hpart : x.part = .none) (hx : x.rest cfg = a) :
    ∃ d got s', a.Ends cfg c d ∧ Reaches cfg u (c.withUnit u x, s) (d.ctx.withUnit u
      { x with phase := .commit, got := got, part := .none, next := d.next, stop := d.stop }, s') := by
  induction h generalizing x s with
  | ret next stop c =>
    refine ⟨_, x.got, s, .ret next stop c, .head ?_ (.refl ..)⟩
    unfold ExecUnit.rest at hx
    simp only [accessStep, Ctx.withUnit_unit hu, hx, hpart]
    exact congrArg (fun y => Host.Outcome.next (y, s)) (c.withUnit_withUnit u x _)
  | @op e k c c' v he hp _ ih =>
    obtain ⟨s', hr⟩ := access_alone (s := s) hu hpart he hw hx hp
    have hu' : u < c'.vm.tick.units.length := by rwa [(e.perform_kept hp).units]
    obtain ⟨d, got, s'', hend, hr'⟩ := ih (s := s') hu' (e.perform_wf hp hw) rfl (x.rest_complete hx v)
    exact ⟨d, got, s'', .op he hp hend, hr.trans hr'⟩
  | @choose k c _ ih =>
    have hr : Reaches cfg u (c.withUnit u x, s) _ := .of_event (d := c) hu hx rfl
    obtain ⟨d, got, s'', hend, hr'⟩ :=
      ih (BitVec.ofNat 32 (Config.schedule s)) (s := s + 1) hu hw rfl (x.rest_complete hx _)
    exact ⟨d, got, s'', .choose _ hend, hr.trans hr'⟩

/-! ### No choice of an instruction that completes leads to a refusal -/

/-- Where these accesses complete alone, nothing of them is refused whatever their choices answer. -/
def Act.Robust (cfg : Config) (a : Act) : Prop := ∀ c d, a.run cfg c = .ok d → a.NeverRefused cfg c

theorem Act.robust_ret {cfg : Config} {next : Word} {stop : Bool} : (Act.ret next stop).Robust cfg :=
  fun c _ _ => .ret next stop c

theorem Act.robust_op {cfg : Config} {e : Event} (he : e ≠ .choose) {k : Word → Act} (hk : ∀ v, (k v).Robust cfg) :
    (Act.op e k).Robust cfg := fun c d h => by
  simp only [Act.run] at h
  split at h
  · next v c' hp => exact .op he hp (hk v c' d h)
  · cases h

theorem writeBack_robust {cfg : Config} {rd : RegIx} {v pc : Word} : (writeBack rd v pc).Robust cfg :=
  Act.robust_op (by simp) fun _ => Act.robust_ret

/-- Registers are read in either order without a refusal. -/
theorem readBoth_robust {cfg : Config} {r q : RegIx} {k : Word → Word → Act} (hk : ∀ a b, (k a b).Robust cfg) :
    (readBoth r q k).Robust cfg := fun c d h => by
  have hrun : (k (c.vm.reg r) (c.vm.reg q)).run cfg c = .ok d := by simpa [readBoth, Act.run, Event.perform] using h
  refine .choose fun n => ?_
  split
  · exact .op (by simp) rfl (.op (by simp) rfl (hk _ _ c d hrun))
  · exact .op (by simp) rfl (.op (by simp) rfl (hk _ _ c d hrun))

/-- Filling a ring slot, in any order, is never refused. -/
theorem fillSlot_neverRefused {cfg : Config} {ctr : Word} {k : Act} (hk : ∀ c, k.NeverRefused cfg c) (fuel : Nat)
    (todo : List SlotTask) (c : Ctx) : (fillSlot ctr k fuel todo).NeverRefused cfg c := by
  induction fuel generalizing todo c with
  | zero => exact hk c
  | succ fuel ih =>
    rw [fillSlot]
    split
    · exact hk c
    · refine .choose fun n => ?_
      rcases chooseFrom todo n.toNat with ⟨task, others⟩
      cases task <;> exact .op (by simp [SlotTask.event]) rfl (ih _ _)

theorem queueSyscall_robust (cfg : Config) (n pc : Word) : (queueSyscall n pc).Robust cfg := fun c _ _ =>
  .op (by simp) rfl (fillSlot_neverRefused (fun c => .op (by simp) rfl (.ret _ _ _)) _ _ _)

theorem copyToConsole_robust {cfg : Config} {k : Act} (hk : k.Robust cfg) (n : Nat) (ptr : Word) :
    (copyToConsole k n ptr).Robust cfg := by
  induction n generalizing ptr with
  | zero => exact hk
  | succ n ih => exact Act.robust_op (by simp) fun _ => Act.robust_op (by simp) fun _ => ih (ptr + 1#32)

theorem consoleWrite_robust (cfg : Config) (pc : Word) : (consoleWrite pc).Robust cfg := by
  refine Act.robust_op (by simp) fun fd => Act.robust_op (by simp) fun ptr => Act.robust_op (by simp) fun len => ?_
  split
  · exact copyToConsole_robust Act.robust_ret len.toNat ptr
  · exact Act.robust_ret

/-- An instruction that completes alone is not refused for any order of its accesses. -/
theorem meaningOf_robust (i : Instr) (cfg : Config) (pc : Word) : (meaningOf i cfg pc).Robust cfg := by
  cases i
  case lui | auipc => exact writeBack_robust
  case jal => exact Act.robust_op (by simp) fun _ => Act.robust_ret
  case jalr => exact Act.robust_op (by simp) fun _ => Act.robust_op (by simp) fun _ => Act.robust_ret
  case beq | bne | blt | bge | bltu | bgeu => exact readBoth_robust fun _ _ => Act.robust_ret
  case lb | lh | lw | lbu | lhu =>
    exact Act.robust_op (by simp) fun _ => Act.robust_op (by simp) fun _ => writeBack_robust
  case sb | sh | sw => exact readBoth_robust fun _ _ => Act.robust_op (by simp) fun _ => Act.robust_ret
  case addi | slti | sltiu | xori | ori | andi | slli | srli | srai | fsqrt | fcvtSW =>
    exact Act.robust_op (by simp) fun _ => writeBack_robust
  case add | sub | sll | slt | sltu | xor | srl | sra | or | and | fadd | fsub | fmul | fdiv | fmin | fmax | feq | flt |
    fle => exact readBoth_robust fun _ _ => writeBack_robust
  case fcvtWS =>
    refine Act.robust_op (by simp) fun _ => ?_
    split
    · exact writeBack_robust
    · exact Act.robust_op (by simp) fun _ => writeBack_robust
  case ecall =>
    refine Act.robust_op (by simp) fun n => ?_
    split
    · exact consoleWrite_robust cfg pc
    · exact queueSyscall_robust cfg n pc
  case ebreak => exact Act.robust_op (by simp) fun _ => Act.robust_ret
  case fence | fenceI | csrrw | csrrs | csrrc | csrrwi | csrrsi | csrrci | unknown => exact Act.robust_ret

/-- Settles O42: a unit alone performs its instruction to one of the ends its choices allow, and all of them are the end of
the instruction performed as a whole. -/
theorem accessEventsAloneGiveTheInstruction : Obligations.AccessEventsAloneGiveTheInstruction := by
  intro cfg c n u d hw hu x _ hgot hpart hrun
  have hrest : x.rest cfg = meaningOf (decodeWord cfg.fpCodes x.word) cfg x.ia := by
    rw [ExecUnit.rest, hgot]; simp only [Act.after]
  obtain ⟨d', got, n', hend, k, hk⟩ := (meaningOf_robust _ cfg x.ia c d hrun).reaches (s := n) hu hw hpart hrest
  rw [Except.ok.inj (hrun.symm.trans (meaningOf_settled _ cfg x.ia c d' hend)), ← Ctx.withUnit_self hu]
  exact ⟨k, n', got, hk⟩

end Sys2Proof.Machine
end

section
/-! What a step can do to each VM, once: every move of the host and of a tick, with what holds when it is taken. -/

namespace Sys2Proof.Machine

/-! ### The host's operations (R361) -/

/-- What an operation of the host does to one VM. -/
inductive HostMove (cfg : Config) (vm : VM) : VM → Prop where
  | keeps : HostMove cfg vm vm
  | creates : HostMove cfg vm (VM.reset cfg.consoleCap)
  | loads (bytes : List Byte) (hfit : cfg.imageBase + bytes.length ≤ cfg.memSize) :
      HostMove cfg vm { vm with mem := vm.mem.setBytes cfg.imageBase bytes }
  | starts (budget pc : Word) (hrun : vm.vmStatus = .running) (hpc : legalPc cfg pc = true) :
      HostMove cfg vm (vm.startTick cfg budget pc)
  | setsStatus (st : VmStatus) : HostMove cfg vm { vm with vmStatus := st }
  | answers (slot : Fin 16) (w : Word) :
      HostMove cfg vm { vm with ring := vm.ring.set slot { vm.ring[slot] with result := w } }
  | drains : HostMove cfg vm { vm with consoleLen := 0 }
  | resetsProf : HostMove cfg vm vm.resetProf
  | writes (a : Nat) (n : Size) (w : Word) (hfit : a + n.bytes ≤ cfg.memSize) : HostMove cfg vm (vm.storeMem a n w)

/-- What an operation of the host leaves of the whole state: the configuration, a table within MAX_REGIONS, each VM after
one of its moves, and a running tick only where it started one. -/
structure HostEffect (s t : State) : Prop where
  cfg : t.cfg = s.cfg
  regions : t.regions = s.regions ∨ t.regions.length ≤ s.cfg.maxRegions
  vms : ∀ v : VmId, HostMove s.cfg (s.vms[v]) (t.vms[v])
  tick : t.running = s.running ∧ t.cur = s.cur ∨
    ∃ budget pc, t.running = true ∧ t.vm = (s.vms[t.cur]).startTick s.cfg budget pc

/-- Replacing one VM by what a move makes of it. -/
theorem HostMove.withVmAt {s : State} {w : VmId} {vm : VM} (h : HostMove s.cfg (s.vms[w]) vm) (v : VmId) :
    HostMove s.cfg (s.vms[v]) ((s.withVmAt w vm).vms[v]) := by
  rw [State.withVmAt_vms]
  split
  · next e => subst e; exact h
  · exact .keeps

/-- An operation on one VM. -/
theorem HostEffect.of_move {s : State} {w : VmId} {vm : VM} (h : HostMove s.cfg (s.vms[w]) vm) (out : List HostReply) :
    HostEffect s { s.withVmAt w vm with hostOut := out } :=
  ⟨rfl, .inl rfl, h.withVmAt, .inl ⟨rfl, rfl⟩⟩

/-- An operation that only answers, or counts a check. -/
theorem HostEffect.of_answer (s : State) (counters : ProtCounters) (out : List HostReply) :
    HostEffect s { s with counters := counters, hostOut := out } :=
  ⟨rfl, .inl rfl, fun _ => .keeps, .inl ⟨rfl, rfl⟩⟩

/-- Everything an operation of the host can do. -/
theorem hostOp_effect {s t : State} {op : HostOp} (h : hostOp s op = .next t) : HostEffect s t := by
  cases op <;> simp only [hostOp] at h
  case createVM v => cases h; exact .of_move .creates _
  case loadImage v bytes =>
    unfold Machine.loadImage at h
    split at h
    · cases h
    · next hfit => cases h; exact .of_move (.loads bytes (by omega)) _
  case tick v budget pc =>
    unfold beginTick at h
    simp only at h
    split at h
    · cases h; exact .of_answer s _ _
    · next hrun =>
      split at h
      · cases h
      · next hpc =>
        cases h
        refine ⟨rfl, .inl rfl, HostMove.withVmAt (.starts budget pc (not_not.1 hrun) (by simpa using hpc)), .inr ?_⟩
        exact ⟨budget, pc, rfl, (State.withVmAt_vms s v _ v).trans (if_pos rfl)⟩
  case setVmStatus v st => cases h; exact .of_move (.setsStatus st) _
  case writeResult v slot w => cases h; exact .of_move (.answers slot w) _
  case drainConsole v => cases h; exact .of_move .drains _
  case resetProf v => cases h; exact .of_move .resetsProf _
  case hostRead v a n =>
    unfold Machine.hostRead at h
    split at h
    · cases h
    · cases h; exact .of_answer s _ _
  case hostWrite v a n w =>
    unfold Machine.hostWrite at h
    split at h
    · cases h
    · next hfit => cases h; exact .of_move (.writes a.toNat n w (by omega)) _
  case setRegions table =>
    split at h
    · cases h
    · next hfit => cases h; exact ⟨rfl, .inr (by simpa using hfit), fun _ => .keeps, .inl ⟨rfl, rfl⟩⟩
  all_goals cases h; exact .of_answer s _ _

/-! ### The steps of a tick (R300) -/

/-- What a step of a tick does to the VM of the tick. `runs` is a whole iteration of the only unit (R320): `c` is the VM that
has claimed the instruction, `d` what the instruction leaves. -/
inductive TickMove (cfg : Config) (vm : VM) : VM → Prop where
  | ends : TickMove cfg vm vm.endTick
  | leaves (hn : cfg.nUnits = 1) : TickMove cfg vm (vm.goto 0 .left)
  | halts (hn : cfg.nUnits = 1) : TickMove cfg vm (vm.raiseHalt.goto 0 .left)
  | runs (w : Word) (c : Ctx) (d : Done) (hn : cfg.nUnits = 1) (hu : 0 < vm.tick.units.length)
      (hb : vm.mayBegin = true) (hl : vm.tick.lock = false) (hpc : vm.cpu.pc ≠ cfg.haltPc)
      (hw : fetchWord cfg vm vm.cpu.pc = .ok w) (hc : c.vm = (vm.setTurn 0).claim 0)
      (hd : (meaningOf (decodeWord cfg.fpCodes w) cfg vm.cpu.pc).run cfg c = .ok d) :
      TickMove cfg vm
        ((d.ctx.vm.setUnit 0 { d.ctx.vm.unit 0 with next := d.next, stop := d.stop }).finish cfg 0)
  | moves (u turn : Nat) (vm' : VM) (hn : cfg.nUnits ≠ 1) (hu : u < vm.tick.units.length)
      (hm : UnitMove cfg vm (vm.unit u) u vm') : TickMove cfg vm (vm'.setTurn turn)

/-- The unit that claims the PC (R306). -/
theorem VM.unit_claim (vm : VM) {u : Nat} (hu : u < vm.tick.units.length) :
    (vm.claim u).unit u = { vm.unit u with phase := .fetch, ia := vm.cpu.pc } := vm.unit_setUnit u _ hu

/-- An iteration of the only unit is one of those moves. -/
theorem iterate_move {s t : State} (hn : s.cfg.nUnits = 1) (hu : 0 < s.vm.tick.units.length) (h : iterate s = .next t) :
    TickMove s.cfg s.vm t.vm := by
  rcases iterate_cases h with ⟨-, rfl⟩ | ⟨-, -, -, rfl⟩ | ⟨hb, hl, hpc, w, r, hw, hr, rfl⟩
  · rw [State.withVm_vm]; exact .leaves hn
  · rw [State.withVm_vm]; exact .halts hn
  · obtain ⟨d, hd, rfl⟩ := exec_next hr
    have hvm : s.claim.vm = (s.vm.setTurn 0).claim 0 := State.withVm_vm ..
    have hturn : d.ctx.vm.tick.turn = 0 := by
      rw [(Act.run_kept hd).tick]; exact congrArg (·.tick.turn) hvm
    have hia : s.claim.ia = s.vm.cpu.pc := by
      rw [State.ia, State.unit, hvm]
      exact congrArg ExecUnit.ia ((s.vm.setTurn 0).unit_claim hu)
    rw [hia] at hd
    have hfin := TickMove.runs w s.claim.ctx d hn hu hb hl hpc hw hvm hd
    rw [State.finish, State.withVm_vm, State.setNext_vm, State.withCtx_vm, State.unit, State.withCtx_vm, hturn]
    exact hfin

/-- What a step does to each VM: a move of the host while no tick runs, else a move of the tick on its own VM. -/
theorem step_vm {s t : State} (h : step s = .next t) (v : VmId) :
    (s.running = false ∧ HostMove s.cfg (s.vms[v]) (t.vms[v])) ∨
    (s.running = true ∧ v ≠ s.cur ∧ t.vms[v] = s.vms[v]) ∨
    (s.running = true ∧ v = s.cur ∧ TickMove s.cfg (s.vms[v]) (t.vms[v])) := by
  -- the steps of a tick replace the VM of the tick
  have tick : ∀ vm, s.running = true → t.vms = (s.withVm vm).vms → TickMove s.cfg s.vm vm →
      (s.running = true ∧ v ≠ s.cur ∧ t.vms[v] = s.vms[v]) ∨
      (s.running = true ∧ v = s.cur ∧ TickMove s.cfg (s.vms[v]) (t.vms[v])) := by
    intro vm hr ht hm
    rw [ht, State.withVm_vms]
    split
    · next e => subst e; exact .inr ⟨hr, rfl, hm⟩
    · next e => exact .inl ⟨hr, e, rfl⟩
  rcases step_cases h with ⟨hr, -, rfl⟩ | ⟨hr, op, rest, -, ho⟩ | ⟨hr, rfl, -⟩ | ⟨hr, hn, ⟨x, xs, hx, -⟩, hi⟩ |
    ⟨hr, hn, u, c, n, hu, -, hstep, rfl⟩
  · exact .inl ⟨hr, .keeps⟩
  · exact .inl ⟨hr, (hostOp_effect ho).vms v⟩
  · exact .inr (tick _ hr rfl .ends)
  · have hm := iterate_move hn (by simp [hx]) hi
    obtain ⟨vm, free, rfl⟩ := iterate_withVm hi
    exact .inr (tick vm hr rfl (State.withVm_vm s vm ▸ hm))
  · exact .inr (tick _ hr rfl (.moves u _ _ hn hu (unitStep_move hstep)))

end Sys2Proof.Machine
end

section
/-! Every step keeps a well-formed state well-formed (O44). What well-formedness says of a VM falls in two: what the
accesses of instructions reach (`DataWf`), and the scheduler's units (`Tick.Wf`). -/

namespace Sys2Proof.Machine

/-! ### Well-formedness in two parts -/

/-- The fields of a VM that `DataWf` speaks of. -/
def VM.data (vm : VM) : Memory × List Byte × Nat × CpuStatus × List PixelStore :=
  (vm.mem, vm.console, vm.consoleLen, vm.cpu.status, vm.pixels)

/-- What well-formedness says of memory, console, status and pixels (R32, R43, R60, R70). -/
structure VM.DataWf (cfg : Config) (vm : VM) : Prop where
  memForm : vm.mem.wf = true
  memBelow : vm.mem.below cfg.memSize = true
  consoleSize : vm.console.length = cfg.consoleCap
  consoleFill : vm.consoleLen ≤ cfg.consoleCap
  noError : vm.cpu.status.error = false
  pixelsIn : ∀ p ∈ vm.pixels, p.col < cfg.fbWidth ∧ p.row < cfg.fbHeight

/-- What well-formedness says of one unit (R41, R68). -/
def ExecUnit.Wf (cfg : Config) (x : ExecUnit) : Prop := x.partOk cfg = true ∧ (x.phase ≠ .run → x.part = .none)

/-- What well-formedness says of the scheduler's state (R300, R320). -/
structure Tick.Wf (cfg : Config) (k : Tick) : Prop where
  unitCount : k.units.length ≤ cfg.nUnits
  parts : ∀ x ∈ k.units, x.Wf cfg
  single : cfg.nUnits = 1 → k.lock = false ∧ ∀ x ∈ k.units, x.phase = .top ∨ x.phase = .left

theorem VM.wf_iff {cfg : Config} {vm : VM} : vm.Wf cfg ↔ vm.DataWf cfg ∧ vm.tick.Wf cfg :=
  ⟨fun h => ⟨⟨h.memForm, h.memBelow, h.consoleSize, h.consoleFill, h.noError, h.pixelsIn⟩,
      h.unitCount, h.parts, h.single⟩,
    fun ⟨h, k⟩ => ⟨h.memForm, h.memBelow, h.consoleSize, h.consoleFill, h.noError, h.pixelsIn, k.unitCount, k.parts,
      k.single⟩⟩

theorem VM.DataWf.congr {cfg : Config} {vm vm' : VM} (h : vm.DataWf cfg) (he : vm'.data = vm.data) : vm'.DataWf cfg := by
  simp only [VM.data, Prod.mk.injEq] at he
  obtain ⟨hmem, hconsole, hlen, hstatus, hpixels⟩ := he
  constructor
  · rw [hmem]; exact h.memForm
  · rw [hmem]; exact h.memBelow
  · rw [hconsole]; exact h.consoleSize
  · rw [hlen]; exact h.consoleFill
  · rw [hstatus]; exact h.noError
  · rw [hpixels]; exact h.pixelsIn

theorem Tick.Wf.congr {cfg : Config} {k k' : Tick} (h : k.Wf cfg) (hu : k'.units = k.units) (hl : k'.lock = k.lock) :
    k'.Wf cfg :=
  ⟨by rw [hu]; exact h.unitCount, by rw [hu]; exact h.parts, by rw [hu, hl]; exact h.single⟩

/-! ### Units -/

/-- What holds of all units and of the one put in holds of all units. -/
theorem VM.forall_setUnit {P : ExecUnit → Prop} {vm : VM} (h : ∀ x ∈ vm.tick.units, P x) {u : Nat} {y : ExecUnit}
    (hy : P y) : ∀ x ∈ (vm.setUnit u y).tick.units, P x := fun x hx => by
  rcases List.mem_or_eq_of_mem_set hx with hx | rfl
  · exact h x hx
  · exact hy

/-- What holds of all units and of a fresh one holds of the unit with any number. -/
theorem VM.forall_unit {P : ExecUnit → Prop} {vm : VM} (h : ∀ x ∈ vm.tick.units, P x) (hf : P .fresh) (u : Nat) :
    P (vm.unit u) := by
  by_cases hu : u < vm.tick.units.length
  · exact h _ (vm.unit_mem hu)
  · rw [VM.unit, List.getD_eq_default _ _ (Nat.le_of_not_lt hu)]; exact hf

/-- A unit with no access in progress. -/
theorem ExecUnit.Wf.of_idle {cfg : Config} {x : ExecUnit} (h : x.part = .none) : x.Wf cfg :=
  ⟨by simp [partOk, h], fun _ => h⟩

/-- A unit that has no access left has none in progress. -/
theorem ExecUnit.Wf.idle_of_ret {cfg : Config} {x : ExecUnit} (h : x.Wf cfg) {next : Word} {stop : Bool}
    (hr : x.rest cfg = .ret next stop) : x.part = .none := by
  obtain ⟨hok, -⟩ := h
  unfold partOk piecesOk event at hok
  rw [hr] at hok
  split at hok
  · assumption
  all_goals simp at hok

theorem ExecUnit.event_of_op {cfg : Config} {x : ExecUnit} {e : Event} {k : Word → Act} (h : x.rest cfg = .op e k) :
    x.event cfg = some e := by rw [event, h]

/-- The pieces lie inside a store of width `n`. -/
def PiecesFit (n : Size) (pieces : List (Nat × Nat)) : Prop :=
  pieces ≠ [] ∧ ∀ p ∈ pieces, p.1 + (sizeOfWidth p.2).bytes ≤ n.bytes

theorem ExecUnit.piecesOk_iff {cfg : Config} {x : ExecUnit} {a : Word} {n : Size} {v : Word}
    (he : x.event cfg = some (.store a n v)) (pieces : List (Nat × Nat)) :
    x.piecesOk cfg pieces = true ↔ writeKind cfg a.toNat n = .plain ∧ PiecesFit n pieces := by
  simp [piecesOk, he, PiecesFit, and_assoc]

theorem PiecesFit.perm {n : Size} {l l' : List (Nat × Nat)} (h : PiecesFit n l) (hp : l'.Perm l) : PiecesFit n l' :=
  ⟨fun e => h.1 (by rw [e] at hp; exact hp.nil_eq.symm), fun p hm => h.2 p (hp.mem_iff.1 hm)⟩

/-- The pieces a plain store that is no aligned word begins with. -/
theorem storePieces_fit {a : Nat} {n : Size} (h : isMisaligned a n = true ∨ n ≠ .word) :
    PiecesFit n (storePieces a n) := by
  obtain ⟨hne, hok, -⟩ := storePieces_ok h
  exact ⟨hne, fun p hp => by rw [(hok p hp).sizeOfWidth_bytes]; exact (hok p hp).1⟩

/-! ### What one access writes -/

theorem Config.memSize_of_ok {cfg : Config} (h : cfg.ok = true) : cfg.memSize % 4 = 0 ∧ 128 ≤ cfg.memSize := by
  simp only [Config.ok, Bool.and_eq_true, decide_eq_true_eq] at h
  tauto

theorem VM.DataWf.storeMem {cfg : Config} {vm : VM} (h : vm.DataWf cfg) {a : Nat} {n : Size}
    (hfit : a + n.bytes ≤ cfg.memSize) (v : Word) : (vm.storeMem a n v).DataWf cfg :=
  { h with memForm := Memory.wf_store h.memForm a n v, memBelow := Memory.below_store h.memBelow hfit v }

/-- The registers are the first 128 bytes of memory (R20). -/
theorem VM.DataWf.setReg {cfg : Config} {vm : VM} (h : vm.DataWf cfg) (hcfg : cfg.ok = true) (r : RegIx) (v : Word) :
    (vm.setReg r v).DataWf cfg := by
  unfold VM.setReg
  split
  · exact h
  · have := (Config.memSize_of_ok hcfg).2
    exact h.storeMem (n := .word) (by simp only [Size.bytes]; omega) v

/-- R284: an append stays inside the console. -/
theorem VM.DataWf.appendConsole {cfg : Config} {vm : VM} (h : vm.DataWf cfg) (b : Byte) :
    (vm.appendConsole cfg b).DataWf cfg := by
  unfold VM.appendConsole
  split
  · next hlt => exact { h with consoleSize := by simpa using h.consoleSize, consoleFill := hlt }
  · exact h

/-- R70: the transaction of a pixel address lies in the framebuffer. -/
theorem pixelStore_in {cfg : Config} {a : Nat} (h : isPixelAddress cfg a = true) (v : Word) :
    (pixelStore cfg a v).col < cfg.fbWidth ∧ (pixelStore cfg a v).row < cfg.fbHeight := by
  simp only [isPixelAddress, Bool.and_eq_true, decide_eq_true_eq] at h
  have hsize : cfg.windowSize ≠ 0 := by omega
  have hdims : cfg.fbWidth ≠ 0 ∧ cfg.fbHeight ≠ 0 := by simpa [Config.windowSize] using hsize
  exact ⟨Nat.mod_lt _ (Nat.pos_of_ne_zero hdims.1),
    Nat.lt_of_le_of_lt (Nat.sub_le _ _) (Nat.sub_one_lt hdims.2)⟩

theorem writeKind_pixel {cfg : Config} {a : Nat} {n : Size} (h : writeKind cfg a n = .pixel) :
    isPixelAddress cfg a = true := by
  unfold writeKind at h
  split at h
  · next hp => simp only [Bool.and_eq_true] at hp; exact hp.2
  · repeat' split at h
    all_goals cases h

theorem VM.DataWf.issuePixel {cfg : Config} {vm : VM} (h : vm.DataWf cfg) {a : Nat} {n : Size}
    (hk : writeKind cfg a n = .pixel) (v : Word) : (vm.issuePixel (pixelStore cfg a v)).DataWf cfg :=
  { h with
    pixelsIn := fun p hp => by
      rcases List.mem_append.1 hp with hp | hp
      · exact h.pixelsIn p hp
      · rw [List.mem_singleton.1 hp]; exact pixelStore_in (writeKind_pixel hk) v }

theorem memWrite_dataWf {cfg : Config} {c c' : Ctx} {a : Word} {n : Size} {v : Word} (h : memWrite cfg c a n v = .ok c')
    (hd : c.vm.DataWf cfg) : c'.vm.DataWf cfg := by
  rcases memWrite_ok h with ⟨hk, rfl⟩ | ⟨hk, rfl⟩
  · exact hd.storeMem (writeKind_plain hk) v
  · exact hd.issuePixel hk v

/-- An access performed as a whole. -/
theorem Event.perform_dataWf {cfg : Config} (hcfg : cfg.ok = true) {e : Event} {c c' : Ctx} {v : Word}
    (h : e.perform cfg c = .ok (v, c')) (hd : c.vm.DataWf cfg) : c'.vm.DataWf cfg := by
  cases e <;> simp only [Event.perform] at h
  case writeReg r w => cases h; exact hd.setReg hcfg r w
  case load => rcases memRead_ok h with ⟨-, -, rfl⟩ | ⟨-, -, rfl⟩ <;> exact hd
  case store =>
    split at h
    · next hw => cases h; exact memWrite_dataWf hw hd
    · cases h
  case append b => cases h; exact hd.appendConsole b
  case readReg | draw | choose => cases h; exact hd
  case ringInc | ringOwner | ringStore | setWaiting | raiseHalt => cases h; exact hd.congr rfl

theorem Act.run_dataWf {cfg : Config} (hcfg : cfg.ok = true) {a : Act} {c : Ctx} {d : Done} (h : a.run cfg c = .ok d)
    (hd : c.vm.DataWf cfg) : d.ctx.vm.DataWf cfg :=
  Act.run_induction (P := fun c => c.vm.DataWf cfg) (fun _ _ _ _ he hc => Event.perform_dataWf hcfg he hc) h hd

/-! ### One access event of a unit among others (R68) -/

/-- What is left of a store whose other pieces are written. -/
theorem ExecUnit.partOk_afterPieces {cfg : Config} {x : ExecUnit} {a : Word} {n : Size} {v : Word}
    (he : x.event cfg = some (.store a n v)) (hk : writeKind cfg a.toNat n = .plain) {todo : List (Nat × Nat)}
    (hfit : ∀ p ∈ todo, p.1 + (sizeOfWidth p.2).bytes ≤ n.bytes) :
    (x.progress (afterPieces todo)).partOk cfg = true := by
  unfold afterPieces
  split
  · rfl
  · next hne => exact (x.piecesOk_iff he todo).2 ⟨hk, by simpa using hne, hfit⟩

/-- One event of a store that goes piece by piece: a piece of it is written, or its word is read first. -/
theorem storePiece_wf {cfg : Config} {c : Ctx} {x : ExecUnit} {a : Word} {n : Size} {v : Word}
    (he : x.event cfg = some (.store a n v)) (hk : writeKind cfg a.toNat n = .plain) {todo : List (Nat × Nat)}
    (hfit : PiecesFit n todo) (hd : c.vm.DataWf cfg) (choice readFirst : Nat) :
    (storePiece c a.toNat v todo choice readFirst).2.vm.DataWf cfg ∧
      (x.progress (storePiece c a.toNat v todo choice readFirst).1).partOk cfg = true := by
  obtain ⟨off, width, rest, hp, hpiece⟩ := storePiece_cases c a.toNat v hfit.1 choice readFirst
  have hfit' := hfit.perm hp
  rcases hpiece with hpiece | hpiece <;> rw [hpiece]
  · have hin : off + (sizeOfWidth width).bytes ≤ n.bytes := hfit'.2 _ List.mem_cons_self
    have := writeKind_plain hk
    exact ⟨hd.storeMem (by omega) _, x.partOk_afterPieces he hk fun p hm => hfit'.2 p (List.mem_cons_of_mem _ hm)⟩
  · exact ⟨hd, (x.piecesOk_iff he _).2 ⟨hk, hfit'⟩⟩

/-- The write half of a read-modify-write: its aligned word ends at or below MEM_SIZE, a multiple of 4 (R60). -/
theorem mergePiece_wf {cfg : Config} (hcfg : cfg.ok = true) {c : Ctx} {x : ExecUnit} {a : Word} {n : Size} {v : Word}
    (he : x.event cfg = some (.store a n v)) (hk : writeKind cfg a.toNat n = .plain) {todo : List (Nat × Nat)}
    {off width : Nat} (hfit : PiecesFit n ((off, width) :: todo)) (hd : c.vm.DataWf cfg) (old : Word) :
    (mergePiece c a.toNat v todo off width old).2.vm.DataWf cfg ∧
      (x.progress (mergePiece c a.toNat v todo off width old).1).partOk cfg = true := by
  have hin : off + (sizeOfWidth width).bytes ≤ n.bytes := hfit.2 _ List.mem_cons_self
  have hpos : 0 < (sizeOfWidth width).bytes := by cases sizeOfWidth width <;> decide
  have hplain := writeKind_plain hk
  have hmod := (Config.memSize_of_ok hcfg).1
  exact ⟨hd.storeMem (n := .word) (by simp only [Size.bytes]; omega) _,
    x.partOk_afterPieces he hk fun p hm => hfit.2 p (List.mem_cons_of_mem _ hm)⟩

theorem storeEvent_wf {cfg : Config} (hcfg : cfg.ok = true) {c c' : Ctx} {x : ExecUnit} {a : Word} {n : Size} {v : Word}
    {k k' : Nat} {p : Progress} (he : x.event cfg = some (.store a n v)) (hx : x.partOk cfg = true)
    (hd : c.vm.DataWf cfg) (h : storeEvent cfg c a n v x.part k = .ok (p, c', k')) :
    c'.vm.DataWf cfg ∧ (x.progress p).partOk cfg = true := by
  unfold ExecUnit.partOk at hx
  unfold storeEvent at h
  split at h
  · next todo off width old hpart =>
    rw [hpart] at hx
    obtain ⟨hk, hfit⟩ := (x.piecesOk_iff he _).1 hx
    cases h; exact mergePiece_wf hcfg he hk hfit hd old
  · next todo hpart =>
    rw [hpart] at hx
    obtain ⟨hk, hfit⟩ := (x.piecesOk_iff he _).1 hx
    cases h; exact storePiece_wf he hk hfit hd _ _
  · split at h
    · next hpieces =>
      simp only [Bool.and_eq_true, Bool.or_eq_true, decide_eq_true_eq] at hpieces
      cases h; exact storePiece_wf he hpieces.1 (storePieces_fit hpieces.2) hd _ _
    · split at h
      · next hw => cases h; exact ⟨memWrite_dataWf hw hd, rfl⟩
      · cases h

/-- One byte of a misaligned load, or its last. -/
theorem loadPiece_partOk {cfg : Config} {c : Ctx} {x : ExecUnit} {a : Word} {n : Size} (he : x.event cfg = some (.load a n))
    (todo : List Nat) (done : List (Nat × Byte)) (choice : Nat) :
    (x.progress (loadPiece c a.toNat todo done choice)).partOk cfg = true := by
  have hload : ∀ todo done, (x.progress (.partly (.loading todo done))).partOk cfg = true := fun todo done => by
    have he' : (x.progress (.partly (.loading todo done))).event cfg = some (.load a n) := he
    unfold ExecUnit.partOk
    rw [he']; rfl
  unfold loadPiece
  split
  split
  · rfl
  · exact hload _ _

theorem loadEvent_partOk {cfg : Config} {c c' : Ctx} {x : ExecUnit} {a : Word} {n : Size} {k k' : Nat} {p : Progress}
    (he : x.event cfg = some (.load a n)) (h : loadEvent cfg c a n x.part k = .ok (p, c', k')) :
    (x.progress p).partOk cfg = true := by
  unfold loadEvent at h
  split at h
  · cases h; exact loadPiece_partOk he _ _ _
  · split at h
    · cases h; exact loadPiece_partOk he _ _ _
    · split at h
      · cases h; rfl
      · cases h

/-- An access event keeps its VM's data, and what it leaves of the access is the unit's (R68). -/
theorem accessEvent_wf_unit {cfg : Config} (hcfg : cfg.ok = true) {e : Event} {c c' : Ctx} {x : ExecUnit} {k k' : Nat}
    {p : Progress} (he : x.event cfg = some e) (hx : x.partOk cfg = true) (hd : c.vm.DataWf cfg)
    (h : accessEvent cfg e c x.part k = .ok (p, c', k')) : c'.vm.DataWf cfg ∧ (x.progress p).partOk cfg = true := by
  by_cases hl : ∃ a n, e = .load a n
  · obtain ⟨a, n, rfl⟩ := hl
    refine ⟨?_, loadEvent_partOk he h⟩
    rcases loadEvent_ok h with rfl | ⟨-, rfl⟩ <;> exact hd
  by_cases hs : ∃ a n v, e = .store a n v
  · obtain ⟨a, n, v, rfl⟩ := hs
    exact storeEvent_wf hcfg he hx hd h
  by_cases hc : e = .choose
  · subst hc
    obtain ⟨rfl, -, rfl⟩ := accessEvent_choose h
    exact ⟨hd, rfl⟩
  · push Not at hl hs
    obtain ⟨v, hp, rfl, -⟩ := accessEvent_whole h hl hs hc
    exact ⟨Event.perform_dataWf hcfg hp hd, rfl⟩

/-! ### The moves of a tick -/

/-- A unit's step in multi-unit mode: the data stays well formed, and so does the unit put in its place. -/
theorem VM.Wf.setUnit {cfg : Config} {vm vm' : VM} {u : Nat} {y : ExecUnit} (h : vm.Wf cfg) (hn : cfg.nUnits ≠ 1)
    (hd : vm'.DataWf cfg) (hunits : vm'.tick.units = vm.tick.units) (hy : y.Wf cfg) : (vm'.setUnit u y).Wf cfg := by
  obtain ⟨-, hk⟩ := VM.wf_iff.1 h
  refine VM.wf_iff.2 ⟨hd.congr rfl, ?_, VM.forall_setUnit (hunits ▸ hk.parts) hy, fun e => absurd e hn⟩
  rw [VM.setUnit_units, List.length_set, hunits]
  exact hk.unitCount

theorem VM.commitNext_of_multi {cfg : Config} (hn : cfg.nUnits ≠ 1) (vm : VM) (u : Nat) : vm.commitNext cfg u = vm :=
  if_neg hn

/-- Each line of a unit's loop (R313). -/
theorem UnitMove.wf {cfg : Config} (hcfg : cfg.ok = true) (hn : cfg.nUnits ≠ 1) {vm vm' : VM} {u : Nat}
    (hu : u < vm.tick.units.length) (h : vm.Wf cfg) (hm : UnitMove cfg vm (vm.unit u) u vm') : vm'.Wf cfg := by
  obtain ⟨hd, hk⟩ := VM.wf_iff.1 h
  have hx : (vm.unit u).Wf cfg := hk.parts _ (vm.unit_mem hu)
  -- outside `run` the unit has no access in progress
  have idle : ∀ {p : Phase}, (vm.unit u).phase = p → p ≠ .run → (vm.unit u).part = .none := fun hp hne =>
    hx.2 (hp ▸ hne)
  cases hm
  case completes hp hc hr ha =>
    subst hc
    obtain ⟨hd', -⟩ := accessEvent_wf_unit hcfg (ExecUnit.event_of_op hr) hx.1 hd ha
    exact h.setUnit hn hd' (accessEvent_kept ha).units (.of_idle rfl)
  case advances hp hc hr ha =>
    subst hc
    obtain ⟨hd', hy⟩ := accessEvent_wf_unit hcfg (ExecUnit.event_of_op hr) hx.1 hd ha
    exact h.setUnit hn hd' (accessEvent_kept ha).units ⟨hy, fun hne => absurd hp hne⟩
  case fetches => exact h.setUnit hn hd rfl (.of_idle rfl)
  case returns hp hr => exact h.setUnit hn hd rfl (.of_idle (hx.idle_of_ret hr))
  case waits hp hl hr => exact h.setUnit hn hd rfl (.of_idle (idle hp (by decide)))
  case commits hp =>
    rw [VM.commitNext_of_multi hn]; exact h.setUnit hn hd rfl (.of_idle (idle hp (by decide)))
  case gone => exact h
  all_goals exact h.setUnit hn (hd.congr rfl) rfl (.of_idle (idle ‹_› (by decide)))

theorem VM.commitNext_tick (cfg : Config) (vm : VM) (u : Nat) : (vm.commitNext cfg u).tick = vm.tick := by
  unfold VM.commitNext; split <;> rfl

/-- The end of an iteration sends the unit to the top of its loop or out of it (R308, R312). -/
theorem VM.endIteration_eq (vm : VM) (u : Nat) : ∃ abort p, (p = .top ∨ p = .left) ∧
    vm.endIteration u = ({ vm with tick := { vm.tick with abortFlag := abort } } : VM).goto u p := by
  unfold VM.endIteration
  split
  · exact ⟨true, .left, .inr rfl, rfl⟩
  · split
    · exact ⟨vm.tick.abortFlag, .left, .inr rfl, rfl⟩
    · exact ⟨vm.tick.abortFlag, .top, .inl rfl, rfl⟩

/-- What follows an instruction in its iteration: the PC, the count, the profiler and the abort flag change, and the unit
goes to the top of its loop or out of it (R308 to R313). -/
theorem VM.finish_eq (cfg : Config) (vm : VM) (u : Nat) : ∃ (vm' : VM) (p : Phase), vm.finish cfg u = vm'.goto u p ∧
    (p = .top ∨ p = .left) ∧ vm'.data = vm.data ∧ vm'.tick.units = vm.tick.units ∧ vm'.tick.lock = vm.tick.lock ∧
    vm'.vmStatus = vm.vmStatus ∧ vm'.prof = (vm.profRecord (vm.unit u).ia).prof := by
  obtain ⟨abort, p, hp, he⟩ := VM.endIteration_eq (((vm.commitNext cfg u).countOne).profRecord (vm.unit u).ia) u
  refine ⟨_, p, he, hp, ?_⟩
  unfold VM.commitNext
  split <;> exact ⟨rfl, rfl, rfl, rfl, rfl⟩

/-- A list of at most one element, replaced, holds nothing else. -/
theorem eq_of_mem_set_zero {α : Type} {l : List α} {x y : α} (hl : l.length ≤ 1) (h : x ∈ l.set 0 y) : x = y := by
  rcases l with _ | ⟨a, _ | ⟨b, l⟩⟩
  · simp at h
  · simpa using h
  · simp at hl

/-- In single-unit mode a VM is well formed after an iteration that leaves its data well formed, the lock free and no access
of its unit in progress. -/
theorem VM.Wf.of_iteration {cfg : Config} {vm : VM} {p : Phase} (hn : cfg.nUnits = 1) (hd : vm.DataWf cfg)
    (hlen : vm.tick.units.length ≤ 1) (hl : vm.tick.lock = false) (hpart : (vm.unit 0).part = .none)
    (hp : p = .top ∨ p = .left) : (vm.goto 0 p).Wf cfg := by
  have only : ∀ x ∈ (vm.goto 0 p).tick.units, x = { vm.unit 0 with phase := p } := fun x hx => eq_of_mem_set_zero hlen hx
  refine VM.wf_iff.2 ⟨hd.congr rfl, ?_, fun x hx => ?_, fun _ => ⟨hl, fun x hx => ?_⟩⟩
  · rw [hn]; exact List.length_set.trans_le hlen
  · rw [only x hx]; exact .of_idle hpart
  · rw [only x hx]; exact hp

theorem VM.unit_congr {vm vm' : VM} (h : vm'.tick.units = vm.tick.units) (u : Nat) : vm'.unit u = vm.unit u := by
  simp [VM.unit, h]

/-- Every step of a tick keeps its VM well formed. -/
theorem TickMove.wf {cfg : Config} (hcfg : cfg.ok = true) {vm vm' : VM} (h : vm.Wf cfg) (hm : TickMove cfg vm vm') :
    vm'.Wf cfg := by
  obtain ⟨hd, hk⟩ := VM.wf_iff.1 h
  -- the only unit stands between iterations, so it has no access in progress
  have idle : cfg.nUnits = 1 → (vm.unit 0).part = .none := fun hn =>
    VM.forall_unit (P := fun x => x.part = .none) (fun x hx => (hk.parts x hx).2 (by
      rcases (hk.single hn).2 x hx with hp | hp <;> rw [hp] <;> decide)) rfl 0
  cases hm
  case ends =>
    refine VM.wf_iff.2 ⟨{ hd with noError := by unfold VM.endTick; split <;> rfl }, by simp [VM.endTick],
      by simp [VM.endTick], fun hn => ⟨(hk.single hn).1, by simp [VM.endTick]⟩⟩
  case leaves hn => exact .of_iteration hn hd (hn ▸ hk.unitCount) (hk.single hn).1 (idle hn) (.inr rfl)
  case halts hn => exact .of_iteration hn (hd.congr rfl) (hn ▸ hk.unitCount) (hk.single hn).1 (idle hn) (.inr rfl)
  case runs w c d hn hu hb hl hpc hw hc hdone =>
    have hkept := Act.run_kept hdone
    have hdata : d.ctx.vm.DataWf cfg := Act.run_dataWf hcfg hdone (hc ▸ hd.congr rfl)
    have hlen : d.ctx.vm.tick.units.length = vm.tick.units.length := by rw [hkept.units, hc]; exact List.length_set
    have hpart : (d.ctx.vm.unit 0).part = .none := by
      rw [hkept.unit, hc, (vm.setTurn 0).unit_claim hu]; exact idle hn
    obtain ⟨vm', p, he, hp, hfd, hfu, hfl, -, -⟩ :=
      (d.ctx.vm.setUnit 0 { d.ctx.vm.unit 0 with next := d.next, stop := d.stop }).finish_eq cfg 0
    rw [he]
    refine .of_iteration hn (hdata.congr hfd) ?_ ?_ ?_ hp
    · rw [hfu, VM.setUnit_units, List.length_set, hlen]; exact hn ▸ hk.unitCount
    · rw [hfl, VM.setUnit_lock, hkept.lock, hc]; rfl
    · rw [VM.unit_congr hfu, VM.unit_setUnit _ _ _ (hlen ▸ hu)]; exact hpart
  case moves u turn vm' hn hu hm =>
    obtain ⟨hd', hk'⟩ := VM.wf_iff.1 (hm.wf hcfg hn hu h)
    exact VM.wf_iff.2 ⟨hd'.congr rfl, hk'.congr rfl rfl⟩

/-! ### The host's operations -/

/-- A VM just created (R430). -/
theorem VM.reset_wf (cfg : Config) : (VM.reset cfg.consoleCap).Wf cfg where
  memForm := Memory.wf_nil
  memBelow := Memory.below_nil _
  consoleSize := List.length_replicate
  consoleFill := Nat.zero_le _
  noError := rfl
  pixelsIn := by simp [VM.reset]
  unitCount := Nat.zero_le _
  parts := by simp [VM.reset, Tick.reset]
  single := fun _ => ⟨rfl, by simp [VM.reset, Tick.reset]⟩

theorem HostMove.wf {cfg : Config} {vm vm' : VM} (h : vm.Wf cfg) (hm : HostMove cfg vm vm') : vm'.Wf cfg := by
  obtain ⟨hd, hk⟩ := VM.wf_iff.1 h
  cases hm
  case keeps => exact h
  case creates => exact VM.reset_wf cfg
  case loads bytes hfit =>
    exact VM.wf_iff.2 ⟨{ hd with memForm := Memory.wf_setBytes hd.memForm _ bytes,
                                 memBelow := Memory.below_setBytes hd.memBelow bytes hfit }, hk⟩
  case starts budget pc hrun hpc =>
    have fresh : ∀ x ∈ (vm.startTick cfg budget pc).tick.units, x = .fresh := fun x hx => List.eq_of_mem_replicate hx
    refine VM.wf_iff.2 ⟨hd.congr rfl, List.length_replicate.le, fun x hx => ?_, fun _ => ⟨rfl, fun x hx => ?_⟩⟩
    · rw [fresh x hx]; exact .of_idle rfl
    · rw [fresh x hx]; exact .inl rfl
  case drains => exact VM.wf_iff.2 ⟨{ hd with consoleFill := Nat.zero_le _ }, hk⟩
  case writes a n w hfit => exact VM.wf_iff.2 ⟨hd.storeMem hfit w, hk⟩
  case setsStatus | answers | resetsProf => exact VM.wf_iff.2 ⟨hd.congr rfl, hk⟩

/-! ### Every step -/

/-- A step of a unit leaves the number of units (R300). -/
theorem UnitMove.unitCount {cfg : Config} {vm vm' : VM} {x : ExecUnit} {u : Nat} (hm : UnitMove cfg vm x u vm') :
    vm'.tick.units.length = vm.tick.units.length := by
  cases hm
  case completes hp hc hr ha => subst hc; rw [VM.setUnit_units, List.length_set, (accessEvent_kept ha).units]
  case advances hp hc hr ha => subst hc; rw [VM.setUnit_units, List.length_set, (accessEvent_kept ha).units]
  case commits => rw [VM.setUnit_units, List.length_set, VM.commitNext_tick]
  case gone => rfl
  all_goals exact List.length_set

/-- What a step leaves beside the VMs: the configuration, and a table within MAX_REGIONS (R5, R340). -/
theorem step_cfg_regions {s t : State} (h : step s = .next t) :
    t.cfg = s.cfg ∧ (t.regions = s.regions ∨ t.regions.length ≤ s.cfg.maxRegions) := by
  rcases step_cases h with ⟨-, -, rfl⟩ | ⟨-, op, rest, -, ho⟩ | ⟨-, rfl, -⟩ | ⟨-, -, -, hi⟩ |
    ⟨-, -, _, _, _, -, -, -, rfl⟩
  · exact ⟨rfl, .inl rfl⟩
  · exact ⟨(hostOp_effect ho).cfg, (hostOp_effect ho).regions⟩
  · exact ⟨rfl, .inl rfl⟩
  · obtain ⟨vm, free, rfl⟩ := iterate_withVm hi; exact ⟨rfl, .inl rfl⟩
  · exact ⟨rfl, .inl rfl⟩

/-- After a step a running tick has as many units as before, or, just started, N_UNITS (R300). -/
theorem step_unitCount {s t : State} (h : step s = .next t) (ht : t.running = true) :
    (s.running = true ∧ t.vm.tick.units.length = s.vm.tick.units.length) ∨ t.vm.tick.units.length = s.cfg.nUnits := by
  rcases step_cases h with ⟨hr, -, rfl⟩ | ⟨hr, op, rest, -, ho⟩ | ⟨-, rfl, -⟩ | ⟨hr, -, -, hi⟩ |
    ⟨hr, -, u, c, n, -, -, hstep, ht'⟩
  · rw [hr] at ht; cases ht
  · rcases (hostOp_effect ho).tick with ⟨e, -⟩ | ⟨budget, pc, -, e⟩
    · rw [e] at ht; exact absurd (hr.symm.trans ht) (by decide)
    · exact .inr (by rw [e]; exact List.length_replicate)
  · cases ht
  · obtain ⟨-, y, -, hu⟩ := iterate_units hi
    exact .inl ⟨hr, by rw [hu, List.length_set]⟩
  · have hvm : t.vm = c.vm.setTurn (Config.schedule n) := by rw [ht']; exact State.withVm_vm s _
    exact .inl ⟨hr, by rw [hvm]; exact (unitStep_move hstep).unitCount⟩

/-- Settles O44: each VM is kept well formed by every move of the host and of a tick, and the rest of the state is said by
what a step leaves beside the VMs. -/
theorem stepKeepsWellFormedness : Obligations.StepKeepsWellFormedness := by
  intro s t hs h
  obtain ⟨hcfg, hregions⟩ := step_cfg_regions h
  refine ⟨hcfg ▸ hs.config, fun v => ?_, ?_, fun ht => ?_⟩
  · rw [hcfg]
    rcases step_vm h v with ⟨-, hm⟩ | ⟨-, -, he⟩ | ⟨-, -, hm⟩
    · exact hm.wf (hs.vms v)
    · exact he ▸ hs.vms v
    · exact hm.wf hs.config (hs.vms v)
  · rw [hcfg]
    rcases hregions with he | hle
    · exact he ▸ hs.regionCount
    · exact hle
  · rw [hcfg]
    rcases step_unitCount h ht with ⟨hr, he⟩ | he
    · exact he.trans (hs.dispatched hr)
    · exact he

end Sys2Proof.Machine
end

section
/-! The registers (O6, O7): x0 reads 0 and drops what is written, and each other register is its own four bytes of memory. -/

namespace Sys2Proof.Machine

/-- A word read where a word was stored (R62). -/
theorem Memory.load_store_word {m : Memory} (h : m.wf = true) (a : Nat) (v : Word) :
    (m.store a .word v).load a .word = v :=
  word_ext fun i hi => by rw [byteOf_load_word _ _ hi, get_store_inside (n := .word) h a v hi]

/-- A register reads what was written to it. -/
theorem VM.reg_setReg_self {vm : VM} (h : vm.mem.wf = true) {r : RegIx} (hr : r ≠ 0#5) (v : Word) :
    (vm.setReg r v).reg r = v := by
  rw [VM.reg_of_ne _ hr, VM.setReg_mem_of_ne _ hr, Memory.load_store_word h]

/-- A register reads its own bytes only. -/
theorem VM.reg_congr {vm vm' : VM} {q : RegIx}
    (h : ∀ i < 4, vm'.mem.get (4 * q.toNat + i) = vm.mem.get (4 * q.toNat + i)) : vm'.reg q = vm.reg q := by
  unfold VM.reg
  rw [Memory.load_congr (n := .word) h]

/-- A register write leaves the other registers (R23). -/
theorem VM.reg_setReg_of_ne {vm : VM} (h : vm.mem.wf = true) {q r : RegIx} (hne : q ≠ r) (v : Word) :
    (vm.setReg r v).reg q = vm.reg q := by
  have hne' : q.toNat ≠ r.toNat := fun e => hne (BitVec.eq_of_toNat_eq e)
  exact VM.reg_congr fun i hi => VM.setReg_get h r v (by omega)

/-- Settles O6, from what the register ports read and write. -/
theorem registerPorts : Obligations.RegisterPorts := by
  intro vm r v
  refine ⟨vm.reg_zero, vm.setReg_zero v, fun hr => ?_, fun hr => ?_⟩
  · rw [VM.reg_of_ne vm hr, Memory.load]
  · rw [VM.setReg, if_neg hr, VM.storeMem]

/-- Settles O7, by cases on whether the register read is the one written and is x0. -/
theorem registerWriteThenRead : Obligations.RegisterWriteThenRead := by
  intro vm r q v hw
  refine ⟨?_, fun a ha => ?_⟩
  · by_cases hr : r = 0#5
    · rw [if_neg (fun h => h.2 hr), hr, VM.setReg_zero]
    · by_cases hq : q = r
      · rw [if_pos ⟨hq, hr⟩, hq, VM.reg_setReg_self hw hr]
      · rw [if_neg (fun h => hq h.1), VM.reg_setReg_of_ne hw hq]
  · rcases ha with ha | ha | hr
    · exact VM.setReg_get hw r v (.inl ha)
    · exact VM.setReg_get hw r v (.inr ha)
    · rw [hr, VM.setReg_zero]

end Sys2Proof.Machine
end

section
/-! What instructions leave alone. Every instruction stays inside the VM of the tick and its own unit; those that reach
registers only, and the loads, write one register at most (O30). -/

namespace Sys2Proof.Machine

/-! ### Every instruction -/

/-- No instruction reaches beyond its VM's memory, outputs, status and halt flag, its own unit's result and the draws. -/
theorem exec_sameOutside {i : Instr} {s t : State} (h : exec i s = .next t) : s.SameOutside t := by
  obtain ⟨d, hd, rfl⟩ := exec_next h
  have hk := Act.run_kept hd
  have hturn : d.ctx.vm.tick.turn = s.vm.tick.turn := by rw [hk.tick]; rfl
  have hunit : ∀ u, d.ctx.vm.unit u = s.vm.unit u := hk.unit
  have hvm : ((s.withCtx d.ctx).setNext d.next d.stop).vm =
      d.ctx.vm.setUnit s.vm.tick.turn { s.unit with next := d.next, stop := d.stop } := by
    rw [State.setNext_vm, State.unit, State.withCtx_vm, hturn, hunit]; rfl
  refine
    { cfg := rfl, running := rfl, cur := rfl, regions := rfl, counters := rfl, hostIn := rfl, hostOut := rfl, sched := rfl
      otherVms := fun v hv => ?_, cpu := ?_, prof := ?_, tick := ?_, unitCount := ?_, otherUnits := fun u hu => ?_
      unit := ?_ }
  · have hne := State.withVm_vms s d.ctx.vm v
    rw [if_neg hv] at hne
    exact (State.withVm_vms _ _ v).trans ((if_neg hv).trans hne)
  · rw [hvm]; exact hk.cpu
  · rw [hvm]; exact hk.prof
  · rw [hvm, VM.setUnit, hk.tick]; rfl
  · rw [hvm, VM.setUnit_units, List.length_set, hk.units]; rfl
  · rw [hvm, VM.unit_setUnit_of_ne _ _ hu, hunit]
  · rw [State.unit, hvm, VM.setUnit_turn, hturn]
    by_cases hu : s.vm.tick.turn < d.ctx.vm.tick.units.length
    · rw [VM.unit_setUnit _ _ _ hu]
    · have : (d.ctx.vm.setUnit s.vm.tick.turn { s.unit with next := d.next, stop := d.stop }).unit s.vm.tick.turn =
          s.unit := by
        rw [VM.unit_congr (vm := d.ctx.vm) (List.set_eq_of_length_le (Nat.le_of_not_lt hu)), hunit]; rfl
      rw [this]

/-! ### Accesses that write one register at most -/

/-- rd <- v where there is a destination. -/
def VM.setDest (vm : VM) (rd : Option RegIx) (v : Word) : VM :=
  match rd with
  | some r => vm.setReg r v
  | none => vm

/-- Alone, these accesses leave everything but their destination register and at most `n` draws. -/
def Act.WritesDest (cfg : Config) (rd : Option RegIx) (n : Nat) (a : Act) : Prop :=
  ∀ c d, a.Ends cfg c d → ∃ v, ∃ k ≤ n, d.ctx = { c with vm := c.vm.setDest rd v, free := c.free + k }

theorem Act.writesDest_ret {cfg : Config} {next : Word} {stop : Bool} : (Act.ret next stop).WritesDest cfg none 0 :=
  fun c d h => ⟨0#32, 0, le_rfl, by rw [Act.ends_ret.1 h]; rfl⟩

/-- A register write that ends the instruction's accesses. -/
theorem Act.writesDest_write {cfg : Config} {rd : RegIx} {w next : Word} {stop : Bool} :
    (Act.op (.writeReg rd w) fun _ => .ret next stop).WritesDest cfg (some rd) 0 := fun c d h => by
  obtain ⟨_, c', hp, h⟩ := (Act.ends_op (by simp)).1 h
  cases hp
  exact ⟨w, 0, le_rfl, by rw [Act.ends_ret.1 h]; rfl⟩

theorem Act.writesDest_read {cfg : Config} {r : RegIx} {k : Word → Act} {rd : Option RegIx} {n : Nat}
    (hk : ∀ v, (k v).WritesDest cfg rd n) : (Act.op (.readReg r) k).WritesDest cfg rd n := fun c d h => by
  obtain ⟨_, c', hp, h⟩ := (Act.ends_op (by simp)).1 h
  cases hp
  exact hk _ _ d h

theorem readBoth_writesDest {cfg : Config} {r q : RegIx} {k : Word → Word → Act} {rd : Option RegIx} {n : Nat}
    (hk : ∀ a b, (k a b).WritesDest cfg rd n) : (readBoth r q k).WritesDest cfg rd n :=
  fun c d h => hk _ _ c d (readBoth_ends.1 h)

/-- An access that draws one value at most. -/
theorem Act.writesDest_of_draw {cfg : Config} {e : Event} (he : e ≠ .choose)
    (hdraw : ∀ c c' v, e.perform cfg c = .ok (v, c') → c' = c ∨ c' = { c with free := c.free + 1 }) {k : Word → Act}
    {rd : Option RegIx} (hk : ∀ v, (k v).WritesDest cfg rd 0) : (Act.op e k).WritesDest cfg rd 1 := fun c d h => by
  obtain ⟨v, c', hp, h⟩ := (Act.ends_op he).1 h
  obtain ⟨w, m, hm, hd⟩ := hk v c' d h
  obtain rfl : m = 0 := Nat.le_zero.1 hm
  rcases hdraw c c' v hp with rfl | rfl
  · exact ⟨w, 0, Nat.zero_le _, hd⟩
  · exact ⟨w, 1, le_rfl, hd⟩

theorem Act.writesDest_load {cfg : Config} {a : Word} {n : Size} {k : Word → Act} {rd : Option RegIx}
    (hk : ∀ v, (k v).WritesDest cfg rd 0) : (Act.op (.load a n) k).WritesDest cfg rd 1 :=
  Act.writesDest_of_draw (e := .load a n) (by simp)
    (fun c c' v (hp : memRead cfg c a n = .ok (v, c')) => (memRead_ok hp).imp (·.2.2) (·.2.2)) hk

theorem Act.writesDest_draw {cfg : Config} {k : Word → Act} {rd : Option RegIx}
    (hk : ∀ v, (k v).WritesDest cfg rd 0) : (Act.op .draw k).WritesDest cfg rd 1 :=
  Act.writesDest_of_draw (by simp) (fun _ _ _ hp => by cases hp; exact .inr rfl) hk

theorem Act.WritesDest.mono {cfg : Config} {rd : Option RegIx} {n m : Nat} {a : Act} (h : a.WritesDest cfg rd n)
    (hnm : n ≤ m) : a.WritesDest cfg rd m := fun c d hd => by
  obtain ⟨v, k, hk, he⟩ := h c d hd
  exact ⟨v, k, hk.trans hnm, he⟩

/-- The instructions that draw an unspecified value, where they do: the loads and FCVT.W.S (R72, R246). -/
def Draws (i : Instr) : Prop := shapeOf i = .load ∨ ∃ rd rs1 rs2 f3, i = .fcvtWS rd rs1 rs2 f3

/-- An instruction that reaches registers only, or loads, writes its destination register, and draws only as said. -/
theorem meaningOf_writesDest (i : Instr) (hi : shapeOf i = .register ∨ shapeOf i = .load) (cfg : Config) (pc : Word) :
    ∃ n, (meaningOf i cfg pc).WritesDest cfg (destOf i) n ∧ (n = 0 ∨ n = 1 ∧ Draws i) := by
  cases i
  case sb | sh | sw | ecall | ebreak => simp [shapeOf] at hi
  case lui | auipc | jal => exact ⟨0, Act.writesDest_write, .inl rfl⟩
  case jalr | addi | slti | sltiu | xori | ori | andi | slli | srli | srai | fsqrt | fcvtSW =>
    exact ⟨0, Act.writesDest_read fun _ => Act.writesDest_write, .inl rfl⟩
  case beq | bne | blt | bge | bltu | bgeu => exact ⟨0, readBoth_writesDest fun _ _ => Act.writesDest_ret, .inl rfl⟩
  case add | sub | sll | slt | sltu | xor | srl | sra | or | and | fadd | fsub | fmul | fdiv | fmin | fmax | feq | flt |
    fle => exact ⟨0, readBoth_writesDest fun _ _ => Act.writesDest_write, .inl rfl⟩
  case fence | fenceI | csrrw | csrrs | csrrc | csrrwi | csrrsi | csrrci | unknown =>
    exact ⟨0, Act.writesDest_ret, .inl rfl⟩
  case lb | lh | lw | lbu | lhu =>
    exact ⟨1, Act.writesDest_read fun _ => Act.writesDest_load fun _ => Act.writesDest_write, .inr ⟨rfl, .inl rfl⟩⟩
  case fcvtWS =>
    refine ⟨1, Act.writesDest_read fun _ => ?_, .inr ⟨rfl, .inr ⟨_, _, _, _, rfl⟩⟩⟩
    split
    · exact Act.writesDest_write.mono (Nat.zero_le 1)
    · exact Act.writesDest_draw fun _ => Act.writesDest_write

/-- Such an instruction leaves its VM but for the destination register and what its unit records, and the draws as said. -/
theorem exec_writesDest {i : Instr} {s t : State} (hi : shapeOf i = .register ∨ shapeOf i = .load)
    (h : exec i s = .next t) :
    (∃ v u x, t.vm = (s.vm.setDest (destOf i) v).setUnit u x) ∧
      (t.free = s.free ∨ t.free = s.free + 1 ∧ Draws i) := by
  obtain ⟨d, hd, rfl⟩ := exec_next h
  obtain ⟨n, hw, hn⟩ := meaningOf_writesDest i hi s.cfg s.ia
  obtain ⟨v, k, hk, he⟩ := hw _ _ (Act.run_ends hd)
  rw [he]
  refine ⟨⟨v, _, _, by rw [State.setNext_vm, State.withCtx_vm]; rfl⟩, ?_⟩
  show s.free + k = s.free ∨ s.free + k = s.free + 1 ∧ Draws i
  rcases hn with rfl | ⟨rfl, hdraws⟩
  · exact .inl (by omega)
  · obtain rfl | rfl : k = 0 ∨ k = 1 := by omega
    · exact .inl rfl
    · exact .inr ⟨rfl, hdraws⟩

/-! ### The frame -/

/-- Settles O30, from the instruction's one register write and what every instruction leaves. -/
theorem registerFormsFrame : Obligations.RegisterFormsFrame := by
  intro i s t hi hw h
  obtain ⟨⟨v, u, x, hvm⟩, hfree⟩ := exec_writesDest hi h
  have hout := exec_sameOutside h
  refine ⟨hout, ?_⟩
  cases hrd : destOf i with
  | none =>
    have hvm : t.vm = s.vm.setUnit u x := by rw [hvm, hrd]; rfl
    refine ⟨?_, by rw [hvm]; rfl, fun _ a => by rw [State.byte, hvm]; rfl, fun rd e => (by cases e), hfree⟩
    constructor <;> rw [hvm] <;> rfl
  | some rd =>
    have hvm : t.vm = (s.vm.setReg rd v).setUnit u x := by rw [hvm, hrd]; rfl
    have hbyte : ∀ a, t.byte a = (s.vm.setReg rd v).mem.get a := fun a => by rw [State.byte, hvm]; rfl
    refine ⟨?_, by simp [hvm], fun hz a => ?_, fun rd' e => ?_, hfree⟩
    · constructor <;> simp [hvm]
    · obtain rfl : rd = 0#5 := by simpa using hz
      rw [hbyte, VM.setReg_zero]; rfl
    · obtain rfl := Option.some.inj e
      refine ⟨fun a ha => (hbyte a).trans (VM.setReg_get hw rd v ha), fun q hq => ?_⟩
      exact (VM.reg_congr fun i _ => by rw [hvm]; rfl).trans (VM.reg_setReg_of_ne hw hq v)

end Sys2Proof.Machine
end

section
/-! ECALL's queued calls (O28). -/

namespace Sys2Proof.Machine

/-- An ECALL whose number is not 64 is the queued call (R282). -/
theorem ecall_run {cfg : Config} {pc : Word} {c : Ctx} (h : c.vm.reg 17#5 ≠ 64#32) :
    (meaningOf .ecall cfg pc).run cfg c = .ok (queued (c.vm.reg 17#5) pc c) := by
  simp only [meaningOf, actEcall, Act.run, Event.perform, if_neg h, queueSyscall_run]

/-- Settles O28, from what a queued call leaves. -/
theorem ecallQueues : Obligations.EcallQueues := by
  intro s hn
  refine ⟨_, ?_, rfl, rfl, fun k hk => ?_⟩
  · rw [exec_eq_execute, State.execute, ecall_run (c := s.ctx) hn]; rfl
  · rw [State.setNext_vm, VM.setUnit_ring, State.withVm_vm]
    exact Vector.getElem_set_ne (ringSlot s.vm.ringCtr).isLt k.isLt (Ne.symm hk)

end Sys2Proof.Machine
end

section
/-! The state after reset (O45, O60). -/

namespace Sys2Proof.Machine

/-- After reset every VM is one just created. -/
theorem State.reset_vms (v : VmId) : State.reset.vms[v] = VM.reset Config.default.consoleCap :=
  Vector.getElem_replicate v.isLt

/-- A profiler just reset (R374). -/
theorem ProfEntry.replicate_zero (k : Fin 256) : (Vector.replicate 256 ProfEntry.zero)[k] = ProfEntry.zero :=
  Vector.getElem_replicate k.isLt

theorem State.reset_wf : State.reset.Wf where
  config := by decide
  vms := fun v => State.reset_vms v ▸ VM.reset_wf Config.default
  regionCount := Nat.zero_le _
  dispatched := fun h => by cases h

theorem VM.reset_claimsInOrder (cap : Nat) : (VM.reset cap).ClaimsInOrder where
  pc := rfl
  distinct := fun _ => ⟨List.nodup_nil, fun a ha => by cases ha⟩

theorem VM.reset_profAligned (cap : Nat) : (VM.reset cap).ProfAligned :=
  ⟨fun i _ => ProfEntry.replicate_zero i, fun x hx => by cases hx⟩

/-- Settles O45: after reset every VM is one just created, and no tick runs. -/
theorem resetMeetsTheInvariants : Obligations.ResetMeetsTheInvariants := by
  refine ⟨State.reset_wf, fun v => ?_, fun v => ?_, fun v => ?_, fun h => (by cases h), fun v => ?_⟩
  · rw [State.reset_vms]; exact VM.reset_lockExclusive _
  · rw [State.reset_vms]; exact Nat.zero_le _
  · rw [State.reset_vms]; exact VM.reset_claimsInOrder _
  · rw [State.reset_vms]; exact VM.reset_profAligned _

/-- Settles O60, by the values of a VM just created. -/
theorem resetValues : Obligations.ResetValues := by
  refine ⟨fun v => ?_, rfl, rfl⟩
  rw [State.reset_vms]
  exact ⟨rfl, rfl, rfl, rfl, rfl, rfl, rfl, rfl, rfl, rfl, ProfEntry.replicate_zero, VM.reg_zero _⟩

end Sys2Proof.Machine
end

section
/-! VMStatus gates the ticks (O40): no step of a tick makes a VM RUNNING. -/

namespace Sys2Proof.Machine

/-- An access only suspends its VM (R283). -/
theorem Ctx.Kept.running {c c' : Ctx} (h : c.Kept c') (hr : c'.vm.vmStatus = .running) : c.vm.vmStatus = .running := by
  rcases h.status with e | e
  · exact e ▸ hr
  · rw [e] at hr; cases hr

theorem VM.running_of_mayBegin {vm : VM} (h : vm.mayBegin = true) : vm.vmStatus = .running := by
  simp only [VM.mayBegin, Bool.and_eq_true, decide_eq_true_eq] at h
  exact h.1.2

theorem VM.commitNext_vmStatus (cfg : Config) (vm : VM) (u : Nat) : (vm.commitNext cfg u).vmStatus = vm.vmStatus := by
  unfold VM.commitNext; split <;> rfl

theorem UnitMove.running {cfg : Config} {vm vm' : VM} {x : ExecUnit} {u : Nat} (hm : UnitMove cfg vm x u vm')
    (hr : vm'.vmStatus = .running) : vm.vmStatus = .running := by
  cases hm
  case completes hp hc he ha => exact hc ▸ (accessEvent_kept ha).running hr
  case advances hp hc he ha => exact hc ▸ (accessEvent_kept ha).running hr
  case commits => exact vm.commitNext_vmStatus cfg u ▸ hr
  all_goals exact hr

theorem TickMove.running {cfg : Config} {vm vm' : VM} (hm : TickMove cfg vm vm') (hr : vm'.vmStatus = .running) :
    vm.vmStatus = .running := by
  cases hm
  case ends =>
    unfold VM.endTick at hr
    simp only at hr
    split at hr
    · cases hr
    · exact hr
  case leaves | halts => exact hr
  case runs w c d hn hu hb hl hpc hw hc hd => exact VM.running_of_mayBegin hb
  case moves hm => exact hm.running hr

/-- Settles O40: a tick that is turned away changes nothing, and every move of a tick keeps or leaves RUNNING. -/
theorem statusGate : Obligations.StatusGate := by
  refine ⟨fun s v budget pc rest hr hi hst => ?_, fun s t v hr h ht => ?_⟩
  · simp only [step, hr, hostStep, hi, hostOp, Bool.false_eq_true, if_false]
    exact if_pos hst
  · rcases step_vm h v with ⟨hr', -⟩ | ⟨-, -, he⟩ | ⟨-, -, hm⟩
    · rw [hr] at hr'; cases hr'
    · exact he ▸ ht
    · exact hm.running ht

end Sys2Proof.Machine
end

section
/-! Only profiler slots whose number is a multiple of 4 are written (O50): a unit claims the PC, a multiple of 4, and the
profiler records that address. -/

namespace Sys2Proof.Machine

/-- The address a unit executes is a multiple of 4. -/
def ExecUnit.IaAligned (x : ExecUnit) : Prop := x.phase.executing = true → x.ia.toNat % 4 = 0

theorem VM.ProfAligned.congr {vm vm' : VM} (h : vm.ProfAligned) (hp : vm'.prof = vm.prof)
    (hu : vm'.tick.units = vm.tick.units) : vm'.ProfAligned := by
  unfold VM.ProfAligned
  rw [hp, hu]
  exact h

/-- One unit put in, the profiler being as it was. -/
theorem VM.ProfAligned.setUnit {vm vm' : VM} {u : Nat} {y : ExecUnit} (h : vm.ProfAligned) (hp : vm'.prof = vm.prof)
    (hu : vm'.tick.units = vm.tick.units) (hy : y.IaAligned) : (vm'.setUnit u y).ProfAligned :=
  ⟨fun i hi => by rw [VM.setUnit_prof, hp]; exact h.1 i hi, VM.forall_setUnit (hu ▸ h.2) hy⟩

/-- R372: a record of an aligned address writes a slot whose number is a multiple of 4. -/
theorem VM.ProfAligned.profRecord {vm : VM} (h : vm.ProfAligned) {a : Word} (ha : a.toNat % 4 = 0) :
    (vm.profRecord a).ProfAligned := by
  refine ⟨fun i hi => ?_, h.2⟩
  have hne : (profSlot a).val ≠ i.val := fun e => hi (by rw [← e]; simp only [profSlot]; omega)
  exact (Vector.getElem_set_ne (profSlot a).isLt i.isLt hne).trans (h.1 i hi)

/-- A PC a unit may claim is a multiple of 4 (R202, R305). -/
theorem UnitMove.profAligned {cfg : Config} {vm vm' : VM} {u : Nat} (hu : u < vm.tick.units.length)
    (hpc : vm.cpu.pc.toNat % 4 = 0 ∨ vm.cpu.pc = cfg.haltPc) (h : vm.ProfAligned)
    (hm : UnitMove cfg vm (vm.unit u) u vm') : vm'.ProfAligned := by
  have hx : (vm.unit u).IaAligned := h.2 _ (vm.unit_mem hu)
  -- the unit stays inside its instruction at the same address
  have same : ∀ {p : Phase} {y : ExecUnit}, (vm.unit u).phase = p → p.executing = true → y.ia = (vm.unit u).ia →
      y.IaAligned := fun hp he hy _ => by rw [hy]; exact hx (hp ▸ he)
  cases hm
  case claims hp hne => exact h.setUnit rfl rfl fun _ => hpc.resolve_right hne
  case fetches hp hw => exact h.setUnit rfl rfl (same hp rfl rfl)
  case returns hp hr => exact h.setUnit rfl rfl (same hp rfl rfl)
  case completes hp hc hr ha =>
    subst hc; exact h.setUnit (accessEvent_kept ha).prof (accessEvent_kept ha).units (same hp rfl rfl)
  case advances hp hc hr ha =>
    subst hc; exact h.setUnit (accessEvent_kept ha).prof (accessEvent_kept ha).units (same hp rfl rfl)
  case commits hp =>
    have hprof : (vm.commitNext cfg u).prof = vm.prof := by unfold VM.commitNext; split <;> rfl
    exact h.setUnit hprof (by rw [VM.commitNext_tick]) (same hp rfl rfl)
  case counts hp => exact h.setUnit rfl rfl (same hp rfl rfl)
  case profiles hp => exact (h.profRecord (hx (hp ▸ rfl))).setUnit rfl rfl (same hp rfl rfl)
  case waits hp hl hr => exact h.setUnit rfl rfl hx
  case gone => exact h
  all_goals exact h.setUnit rfl rfl fun he => by cases he

theorem TickMove.profAligned {cfg : Config} {vm vm' : VM} (hpc : vm.cpu.pc.toNat % 4 = 0 ∨ vm.cpu.pc = cfg.haltPc)
    (h : vm.ProfAligned) (hm : TickMove cfg vm vm') : vm'.ProfAligned := by
  -- a unit sent to the top of its loop, or out of it, executes no instruction
  have idle : ∀ {p : Phase} (x : ExecUnit), (p = .top ∨ p = .left) → ({ x with phase := p } : ExecUnit).IaAligned := by
    rintro p x (rfl | rfl) he <;> cases he
  cases hm
  case ends => exact ⟨h.1, fun x hx => by cases hx⟩
  case leaves => exact h.setUnit rfl rfl (idle _ (.inr rfl))
  case halts => exact h.setUnit rfl rfl (idle _ (.inr rfl))
  case runs w c d hn hu hb hl hne hw hc hd =>
    have hkept := Act.run_kept hd
    have halign := hpc.resolve_right hne
    have hclaim : c.vm.ProfAligned := by
      rw [hc]; exact (h.setUnit (u := 0) (y := { vm.unit 0 with phase := .fetch, ia := vm.cpu.pc }) rfl rfl
        fun _ => halign).congr rfl rfl
    have hia : (d.ctx.vm.unit 0).ia.toNat % 4 = 0 := by
      rw [hkept.unit, hc, (vm.setTurn 0).unit_claim hu]; exact halign
    have hlen : 0 < d.ctx.vm.tick.units.length := by rw [hkept.units, hc]; simpa [VM.claim, VM.setTurn] using hu
    have hdone : (d.ctx.vm.setUnit 0 { d.ctx.vm.unit 0 with next := d.next, stop := d.stop }).ProfAligned :=
      hclaim.setUnit hkept.prof hkept.units fun _ => hia
    obtain ⟨vm', p, he, hp, -, hfu, -, -, hfp⟩ :=
      (d.ctx.vm.setUnit 0 { d.ctx.vm.unit 0 with next := d.next, stop := d.stop }).finish_eq cfg 0
    rw [VM.unit_setUnit _ _ _ hlen] at hfp
    rw [he]
    exact (hdone.profRecord hia).setUnit hfp hfu (idle _ hp)
  case moves hm => exact (hm.profAligned ‹_› hpc h).congr rfl rfl

theorem HostMove.profAligned {cfg : Config} {vm vm' : VM} (h : vm.ProfAligned) (hm : HostMove cfg vm vm') :
    vm'.ProfAligned := by
  cases hm
  case creates => exact VM.reset_profAligned _
  case starts =>
    exact ⟨h.1, fun x hx he => by rw [List.eq_of_mem_replicate hx] at he; cases he⟩
  case resetsProf => exact ⟨fun i _ => ProfEntry.replicate_zero i, h.2⟩
  all_goals exact h.congr rfl rfl

/-- Settles O50: every move of the host and of a tick keeps each VM's profiler aligned. -/
theorem profilerSlotsAreAligned : Obligations.ProfilerSlotsAreAligned := by
  intro s t _ hs h v
  rcases step_vm h v with ⟨-, hm⟩ | ⟨-, -, he⟩ | ⟨hr, rfl, hm⟩
  · exact hm.profAligned (hs v)
  · exact he ▸ hs v
  · exact hm.profAligned (step_legalPc hr h) (hs s.cur)

end Sys2Proof.Machine
end

section
/-! A running VM is isolated (O52, O53): a step of a tick changes nothing beside its VM and the numbering of the free
values, and depends on nothing else but the configuration. -/

namespace Sys2Proof.Machine

/-- Settles O52, by the cases of a step: each step of a tick replaces the VM of the tick, the numbering of the free values and
whether the tick runs. -/
theorem stepTouchesOnlyTheRunningVm : Obligations.StepTouchesOnlyTheRunningVm := by
  intro s t hr h
  have others : ∀ (vm : VM) (v : VmId), v ≠ s.cur → (s.withVm vm).vms[v] = s.vms[v] := fun vm v hv =>
    (State.withVm_vms s vm v).trans (if_neg hv)
  rcases step_cases h with ⟨hf, -⟩ | ⟨hf, -⟩ | ⟨-, rfl, -⟩ | ⟨-, -, -, hi⟩ | ⟨-, -, u, c, n, -, -, -, rfl⟩
  · rw [hr] at hf; cases hf
  · rw [hr] at hf; cases hf
  · exact ⟨rfl, rfl, rfl, rfl, rfl, rfl, others _⟩
  · obtain ⟨vm, free, rfl⟩ := iterate_withVm hi
    exact ⟨rfl, rfl, rfl, rfl, rfl, rfl, others vm⟩
  · exact ⟨rfl, rfl, rfl, rfl, rfl, rfl, others _⟩

/-! ### States that agree on what a tick reads -/

/-- The states agree on the configuration, the VM of the tick, the tick and the numbering of the free values. -/
structure State.SameRun (s r : State) : Prop where
  cfg : s.cfg = r.cfg
  running : s.running = r.running
  cur : s.cur = r.cur
  free : s.free = r.free
  sched : s.sched = r.sched
  vm : s.vm = r.vm

/-- Where the one outcome is a next state, so is the other, and the two agree. -/
def GoesAlike (o o' : Host.Outcome State Fault Refusal) : Prop := ∀ t, o = .next t → ∃ q, o' = .next q ∧ t.SameRun q

theorem GoesAlike.next {t q : State} (h : t.SameRun q) : GoesAlike (.next t) (.next q) :=
  fun _ e => ⟨q, rfl, by cases e; exact h⟩

theorem GoesAlike.fault (f : Fault) (o : Host.Outcome State Fault Refusal) : GoesAlike (.fault f) o :=
  fun _ e => by cases e

theorem GoesAlike.refused (r : Refusal) (o : Host.Outcome State Fault Refusal) : GoesAlike (.refused r) o :=
  fun _ e => by cases e

namespace State.SameRun
variable {s r : State}

theorem withVm (h : s.SameRun r) (vm : VM) : (s.withVm vm).SameRun (r.withVm vm) :=
  { h with vm := by rw [withVm_vm, withVm_vm] }

theorem withCtx (h : s.SameRun r) (c : Ctx) : (s.withCtx c).SameRun (r.withCtx c) := { h.withVm c.vm with free := rfl }

theorem withSched (h : s.SameRun r) (n : Nat) : ({ s with sched := n } : State).SameRun { r with sched := n } :=
  { h with sched := rfl }

theorem endTick (h : s.SameRun r) : s.endTick.SameRun r.endTick := by
  unfold State.endTick
  rw [← h.vm]
  exact { h.withVm s.vm.endTick with running := rfl }

theorem claim (h : s.SameRun r) : s.claim.SameRun r.claim := by
  unfold State.claim
  rw [← h.vm]
  exact h.withVm _

theorem finish (h : s.SameRun r) : s.finish.SameRun r.finish := by
  unfold State.finish
  rw [← h.vm, ← h.cfg]
  exact h.withVm _

theorem setNext (h : s.SameRun r) (next : Word) (stop : Bool) : (s.setNext next stop).SameRun (r.setNext next stop) := by
  unfold State.setNext State.unit
  rw [← h.vm]
  exact h.withVm _

theorem ctx_eq (h : s.SameRun r) : s.ctx = r.ctx := by rw [State.ctx, h.cur, h.vm, h.free, State.ctx]

theorem ia_eq (h : s.SameRun r) : s.ia = r.ia := by rw [State.ia, State.unit, h.vm, State.ia, State.unit]

/-! ### Steps of a tick from two such states -/

theorem exec (h : s.SameRun r) (i : Instr) : GoesAlike (Machine.exec i s) (Machine.exec i r) := by
  rw [exec_eq_execute, exec_eq_execute, State.execute, State.execute, ← h.cfg, ← h.ia_eq, ← h.ctx_eq]
  split
  · next d _ => exact .next ((h.withCtx d.ctx).setNext d.next d.stop)
  · next e _ => exact .refused e _

theorem runInstruction (h : s.SameRun r) : GoesAlike (Machine.runInstruction s) (Machine.runInstruction r) := by
  unfold Machine.runInstruction
  rw [← h.cfg, ← h.vm]
  split
  · next e _ => exact .refused e _
  · next w _ =>
    have hx := h.claim.exec (decodeWord s.cfg.fpCodes w)
    split
    · next t ht =>
      obtain ⟨q, hq, hs⟩ := hx t ht
      rw [hq]
      exact .next hs.finish
    · next f _ => exact .fault f _
    · next e _ => exact .refused e _

theorem iterate (h : s.SameRun r) : GoesAlike (Machine.iterate s) (Machine.iterate r) := by
  unfold Machine.iterate
  simp only [← h.cfg, ← h.vm]
  split
  · exact .next (h.withVm _)
  · split
    · exact .next (h.withVm _)
    · exact h.runInstruction

theorem singleStep (h : s.SameRun r) : GoesAlike (Machine.singleStep s) (Machine.singleStep r) := by
  unfold Machine.singleStep
  rw [← h.vm]
  split
  · exact .next h.endTick
  · split
    · exact .next h.endTick
    · exact h.iterate

theorem multiStep (h : s.SameRun r) : GoesAlike (Machine.multiStep s) (Machine.multiStep r) := by
  unfold Machine.multiStep
  rw [← h.vm, ← h.cfg, ← h.ctx_eq, ← h.sched]
  split
  · exact .next h.endTick
  · split
    · next c n _ => exact .next ((h.withCtx _).withSched (n + 1))
    · next f _ => exact .fault f _
    · next e _ => exact .refused e _

theorem tickStep (h : s.SameRun r) : GoesAlike (Machine.tickStep s) (Machine.tickStep r) := by
  unfold Machine.tickStep
  rw [← h.vm, ← h.cfg]
  split
  · exact .fault _ _
  · split
    · exact h.singleStep
    · exact h.multiStep

end State.SameRun

/-- Settles O53: each part of a step of a tick goes alike from two states that agree on what it reads. -/
theorem runningVmSeesNothingElse : Obligations.RunningVmSeesNothingElse := by
  intro s r t hs hr hcfg hcur hfree hsched hvm h
  have same : s.SameRun r := ⟨hcfg, hs.trans hr.symm, hcur, hfree, hsched, hvm⟩
  rw [step, if_pos hs] at h
  obtain ⟨q, hq, hsame⟩ := same.tickStep t h
  rw [step, if_pos hr]
  exact ⟨q, hq, hsame.vm.symm, hsame.running.symm, hsame.free.symm, hsame.sched.symm⟩

end Sys2Proof.Machine
end

section
/-! The display window and the framebuffer (O15). -/

namespace Sys2Proof.Machine

theorem isPixelAddress_iff {cfg : Config} {a : Nat} :
    isPixelAddress cfg a = true ↔ a % 4 = 0 ∧ cfg.mmioBase ≤ a ∧ a < cfg.mmioBase + cfg.windowSize := by
  simp [isPixelAddress, and_assoc]

/-- The word of the window whose store issues a transaction for this pixel (R70). -/
def pixelAddress (cfg : Config) (col row : Nat) : Nat := cfg.mmioBase + 4 * ((cfg.fbHeight - 1 - row) * cfg.fbWidth + col)

/-- The transaction of the word whose number from MMIO_BASE on is a row's first and a column (R70). -/
theorem pixelStore_add {cfg : Config} {k col : Nat} (hcol : col < cfg.fbWidth) (v : Word) :
    pixelStore cfg (cfg.mmioBase + 4 * (k * cfg.fbWidth + col)) v = ⟨col, cfg.fbHeight - 1 - k, v⟩ := by
  have hpos : 0 < cfg.fbWidth := by omega
  have hp : (cfg.mmioBase + 4 * (k * cfg.fbWidth + col) - cfg.mmioBase) / 4 = col + cfg.fbWidth * k := by
    rw [Nat.mul_comm cfg.fbWidth]; omega
  simp only [pixelStore, hp, Nat.add_mul_mod_self_left, Nat.mod_eq_of_lt hcol, Nat.add_mul_div_left _ _ hpos,
    Nat.div_eq_of_lt hcol, Nat.zero_add]

/-- The window has four bytes for each pixel (R69). -/
theorem lt_windowSize {cfg : Config} {k col : Nat} (hcol : col < cfg.fbWidth) (hk : k < cfg.fbHeight) :
    4 * (k * cfg.fbWidth + col) < cfg.windowSize := by
  have : (k + 1) * cfg.fbWidth ≤ cfg.fbHeight * cfg.fbWidth := Nat.mul_le_mul_right _ hk
  rw [Config.windowSize, Nat.mul_assoc, Nat.mul_comm cfg.fbWidth]
  rw [Nat.succ_mul] at this
  omega

theorem isPixelAddress_pixelAddress {cfg : Config} (hbase : cfg.mmioBase % 4 = 0) {col row : Nat}
    (hcol : col < cfg.fbWidth) (hrow : row < cfg.fbHeight) : isPixelAddress cfg (pixelAddress cfg col row) = true := by
  have := lt_windowSize (k := cfg.fbHeight - 1 - row) hcol (by omega)
  rw [isPixelAddress_iff, pixelAddress]
  omega

theorem pixelStore_pixelAddress {cfg : Config} {col row : Nat} (hcol : col < cfg.fbWidth) (hrow : row < cfg.fbHeight)
    (v : Word) : pixelStore cfg (pixelAddress cfg col row) v = ⟨col, row, v⟩ := by
  rw [pixelAddress, pixelStore_add hcol, Nat.sub_sub_self (by omega)]

/-- A word of the window is the one of its own transaction's pixel. -/
theorem pixelAddress_pixelStore {cfg : Config} (hbase : cfg.mmioBase % 4 = 0) {a : Nat} (ha : isPixelAddress cfg a = true)
    (v : Word) : pixelAddress cfg (pixelStore cfg a v).col (pixelStore cfg a v).row = a := by
  obtain ⟨halign, hlo, hhi⟩ := isPixelAddress_iff.1 ha
  have hrow : (a - cfg.mmioBase) / 4 / cfg.fbWidth < cfg.fbHeight := by
    refine Nat.div_lt_of_lt_mul ?_
    rw [Config.windowSize, Nat.mul_assoc] at hhi
    omega
  have hdiv : (a - cfg.mmioBase) / 4 / cfg.fbWidth * cfg.fbWidth + (a - cfg.mmioBase) / 4 % cfg.fbWidth =
      (a - cfg.mmioBase) / 4 := Nat.div_add_mod' _ _
  simp only [pixelAddress, pixelStore]
  rw [Nat.sub_sub_self (by omega), hdiv]
  omega

/-- Settles O15: `pixelAddress` is the inverse of `pixelStore` on the window, and gives the corners. -/
theorem windowCoversTheFramebuffer : Obligations.WindowCoversTheFramebuffer := by
  intro cfg v hbase hw hh
  refine ⟨fun a ha => pixelStore_in ha v, fun col row hcol hrow => ?_, ?_, ?_⟩
  · refine ⟨pixelAddress cfg col row,
      ⟨isPixelAddress_pixelAddress hbase hcol hrow, pixelStore_pixelAddress hcol hrow v⟩, fun b hb => ?_⟩
    rw [← pixelAddress_pixelStore hbase hb.1 v, hb.2]
  · simpa using pixelStore_add (k := 0) hw v
  · have hlast : cfg.mmioBase + cfg.windowSize - 4 = pixelAddress cfg (cfg.fbWidth - 1) 0 := by
      have : (cfg.fbHeight - 1) * cfg.fbWidth + cfg.fbWidth = cfg.fbHeight * cfg.fbWidth := by
        rw [← Nat.succ_mul]; congr 1; omega
      rw [pixelAddress, Config.windowSize, Nat.mul_assoc, Nat.mul_comm cfg.fbWidth, Nat.sub_zero]
      omega
    rw [hlast, pixelStore_pixelAddress (by omega) hh]

end Sys2Proof.Machine
end

section
/-! The host's operations (O58, O59). -/

namespace Sys2Proof.Machine

/-! ### Bytes put at consecutive addresses (R432) -/

theorem Memory.get_setBytes_of_outside {m : Memory} (h : m.wf = true) {a b : Nat} {bytes : List Byte}
    (hb : b < a ∨ a + bytes.length ≤ b) : (m.setBytes a bytes).get b = m.get b := by
  induction bytes generalizing m a with
  | nil => rfl
  | cons x rest ih =>
    rw [List.length_cons] at hb
    rw [setBytes, ih (wf_set h a x) (by omega), get_set_of_ne h (by omega)]

theorem Memory.get_setBytes_inside {m : Memory} (h : m.wf = true) (a : Nat) (bytes : List Byte) {k : Nat}
    (hk : k < bytes.length) : (m.setBytes a bytes).get (a + k) = bytes[k] := by
  induction bytes generalizing m a k with
  | nil => simp at hk
  | cons x rest ih =>
    rw [setBytes]
    cases k with
    | zero => rw [get_setBytes_of_outside (wf_set h a x) (by omega)]; exact get_set_self h a x
    | succ k => rw [show a + (k + 1) = a + 1 + k by omega, ih (wf_set h a x) (a + 1) (by simpa using hk)]; rfl

/-! ### One operation of the host -/

/-- With no tick running a step is the oldest pending operation of the host (R360). -/
theorem step_hostOp {s : State} (hr : s.running = false) {op : HostOp} {rest : List HostOp} (hi : s.hostIn = op :: rest) :
    step s = hostOp { s with hostIn := rest } op := by
  simp [step, hr, hostStep, hi]

/-- Settles O58, from what putting bytes at consecutive addresses leaves in memory. -/
theorem imageLoad : Obligations.ImageLoad := by
  intro s v bytes rest hr hi hw
  rw [step_hostOp hr hi]
  refine ⟨fun hbig => if_pos hbig, fun hfit => ⟨(s.vms[v]).mem.setBytes s.cfg.imageBase bytes, ?_, ?_, ?_⟩⟩
  · exact if_neg (by simpa using hfit)
  · exact fun k hk => Memory.get_setBytes_inside hw _ bytes hk
  · exact fun a ha => Memory.get_setBytes_of_outside hw ha

/-- Settles O59: the step of each operation is its arm of `hostOp`, and the bounds decide the accesses to memory and the
length of the table. -/
theorem hostOperations : Obligations.HostOperations := by
  intro s v rest hr
  have arm : ∀ {op : HostOp}, s.hostIn = op :: rest → step s = hostOp { s with hostIn := rest } op := step_hostOp hr
  refine ⟨arm, arm, fun _ => arm, fun _ => arm, arm, fun _ _ => arm, arm, fun _ => arm, arm, arm,
    fun a n hi hfit => ?_, fun a n w hi hfit => ?_, fun a n w hi hbig => ?_, arm, arm,
    fun table hi hfit => ?_, fun table hi hbig => ?_, arm⟩
  · exact (arm hi).trans (if_neg (Nat.not_lt.2 hfit))
  · exact (arm hi).trans (if_neg (Nat.not_lt.2 hfit))
  · rcases hi with hi | hi
    · exact (arm hi).trans (if_pos hbig)
    · exact (arm hi).trans (if_pos hbig)
  · exact (arm hi).trans (if_neg (Nat.not_lt.2 hfit))
  · exact (arm hi).trans (if_pos hbig)

end Sys2Proof.Machine
end

section
/-! A step of a single-unit tick (O35), and the word placed for it (O43). -/

namespace Sys2Proof.Machine

/-! ### The fetch (R78, R79) -/

theorem fetchWord_plain {cfg : Config} (vm : VM) {ia : Word} (hw : touchesWindow cfg ia.toNat .word = false)
    (hfit : ia.toNat + 4 ≤ cfg.memSize) : fetchWord cfg vm ia = .ok (vm.mem.load ia.toNat .word) := by
  simp [fetchWord, hw, hfit]

theorem fetchWord_window {cfg : Config} (vm : VM) {ia : Word} (hw : touchesWindow cfg ia.toNat .word = true) :
    fetchWord cfg vm ia = .error .windowFetch := by
  simp [fetchWord, hw]

theorem fetchWord_outside {cfg : Config} (vm : VM) {ia : Word} (hw : touchesWindow cfg ia.toNat .word = false)
    (hbig : cfg.memSize < ia.toNat + 4) : fetchWord cfg vm ia = .error .outOfRange := by
  simp [fetchWord, hw, hbig]

/-! ### The iteration (R306, R307) -/

/-- The conditions under which a step of a single-unit tick goes on to fetch at the PC. -/
structure State.AtFetch (s : State) : Prop where
  running : s.running = true
  single : s.cfg.nUnits = 1
  unit : ∃ x xs, s.vm.tick.units = x :: xs ∧ x.phase ≠ .left
  mayBegin : s.vm.mayBegin = true
  free : s.vm.tick.lock = false
  goesOn : s.vm.cpu.pc ≠ s.cfg.haltPc
  aligned : s.vm.cpu.pc.toNat % 4 = 0

/-- Such a step is the instruction at the PC. -/
theorem State.AtFetch.step_eq {s : State} (h : s.AtFetch) : step s = runInstruction s := by
  obtain ⟨x, xs, hx, hp⟩ := h.unit
  have hsingle : singleStep s = iterate s := by unfold singleStep; rw [hx]; exact if_neg hp
  have hlegal : legalPc s.cfg s.vm.cpu.pc = true := legalPc_iff.2 (.inl h.aligned)
  simp [step, h.running, tickStep, hlegal, h.single, hsingle, iterate, h.mayBegin, h.free, h.goesOn]

/-- A fetch that is refused refuses the step. -/
theorem State.AtFetch.step_refused {s : State} (h : s.AtFetch) {r : Refusal}
    (hf : fetchWord s.cfg s.vm s.vm.cpu.pc = .error r) : step s = .refused r := by
  rw [h.step_eq, runInstruction, fetchInstr, hf]

/-- A fetched word that the configuration does not decode refuses the step (U1). -/
theorem State.AtFetch.step_looseDecode {s : State} (h : s.AtFetch) {w : Word}
    (hf : fetchWord s.cfg s.vm s.vm.cpu.pc = .ok w) (hd : decodable s.cfg w = false) : step s = .refused .looseDecode := by
  rw [h.step_eq, runInstruction, fetchInstr, hf]
  simp [hd]

/-- The claiming unit's address is the PC (R306). -/
theorem State.AtFetch.claim_ia {s : State} (h : s.AtFetch) : s.claim.ia = s.vm.cpu.pc := by
  obtain ⟨x, xs, hx, -⟩ := h.unit
  have hvm : s.claim.vm = (s.vm.setTurn 0).claim 0 := State.withVm_vm ..
  rw [State.ia, State.unit, hvm]
  exact congrArg ExecUnit.ia ((s.vm.setTurn 0).unit_claim (u := 0) (by rw [VM.setTurn, hx]; exact Nat.succ_pos _))

/-- What a step does with the meaning of the instruction it has fetched (R307, R309 to R312). -/
def finished : Host.Outcome State Fault Refusal → Host.Outcome State Fault Refusal
  | .next t => .next t.finish
  | .fault f => .fault f
  | .refused r => .refused r

/-- A fetched word that the configuration decodes is executed (R307). -/
theorem State.AtFetch.step_exec {s : State} (h : s.AtFetch) {w : Word} (hf : fetchWord s.cfg s.vm s.vm.cpu.pc = .ok w)
    (hd : decodable s.cfg w = true) : step s = finished (exec (decodeWord s.cfg.fpCodes w) s.claim) := by
  rw [h.step_eq, runInstruction, fetchInstr_ok.2 ⟨hf, hd⟩]
  rfl

/-- Settles O35: the step is the instruction at the PC, and where the PC lies decides its fetch. -/
theorem stepRunsTheDecodedInstruction : Obligations.StepRunsTheDecodedInstruction := by
  intro s x hr hn hu hp hb hl hpc ha
  have at_ : s.AtFetch := ⟨hr, hn, ⟨x, [], hu, hp⟩, hb, hl, hpc, ha⟩
  refine ⟨fun hw hfit => ?_, fun hw => ?_, fun hw hbig => ?_, fun hstrict w => ?_⟩
  · have hf := fetchWord_plain s.vm hw hfit
    exact ⟨hf, fun hd => ⟨at_.claim_ia, at_.step_exec hf hd⟩, fun hd => at_.step_looseDecode hf hd⟩
  · exact at_.step_refused (fetchWord_window s.vm hw)
  · exact at_.step_refused (fetchWord_outside s.vm hw hbig)
  · rw [decodable, hstrict, Bool.true_or]

/-! ### A placed word (log entry 14) -/

/-- The conditions of `readyToFetch`, in words. -/
theorem State.readyToFetch_iff {s : State} : s.readyToFetch = true ↔
    s.AtFetch ∧ s.vm.cpu.pc.toNat + 4 ≤ s.cfg.memSize ∧ touchesWindow s.cfg s.vm.cpu.pc.toNat .word = false := by
  have hunit : (s.vm.tick.units.head?.any fun x => x.phase ≠ .left) = true ↔
      ∃ x xs, s.vm.tick.units = x :: xs ∧ x.phase ≠ .left := by
    cases s.vm.tick.units <;> simp
  constructor
  · intro h
    simp only [readyToFetch, Bool.and_eq_true, decide_eq_true_eq, Bool.not_eq_true', hunit] at h
    obtain ⟨⟨⟨⟨⟨⟨⟨⟨hr, hn⟩, hu⟩, hb⟩, hl⟩, hpc⟩, ha⟩, hfit⟩, hw⟩ := h
    exact ⟨⟨hr, hn, hu, hb, hl, hpc, ha⟩, hfit, hw⟩
  · rintro ⟨⟨hr, hn, hu, hb, hl, hpc, ha⟩, hfit, hw⟩
    simp only [readyToFetch, Bool.and_eq_true, decide_eq_true_eq, Bool.not_eq_true', hunit]
    exact ⟨⟨⟨⟨⟨⟨⟨⟨hr, hn⟩, hu⟩, hb⟩, hl⟩, hpc⟩, ha⟩, hfit⟩, hw⟩

/-- A word stored at the PC leaves the state ready to fetch it. -/
theorem State.readyToFetch_pokeAtPc (s : State) (w : Word) : (s.pokeAtPc w).readyToFetch = s.readyToFetch := by
  unfold readyToFetch pokeAtPc
  rw [withVm_vm]
  rfl

/-- A word stored at the PC is the one fetched there. -/
theorem State.fetchWord_pokeAtPc {s : State} (h : s.readyToFetch = true) (hm : s.vm.mem.wf = true) (w : Word) :
    fetchWord (s.pokeAtPc w).cfg (s.pokeAtPc w).vm (s.pokeAtPc w).vm.cpu.pc = .ok w := by
  obtain ⟨-, hfit, hw⟩ := readyToFetch_iff.1 h
  rw [pokeAtPc, withVm_vm]
  exact (fetchWord_plain _ hw hfit).trans (congrArg Except.ok (Memory.load_store_word hm _ w))

/-- R5, R69: in every legal configuration address 0 is plain memory and not HALT_PC. -/
theorem Config.zero_of_ok {cfg : Config} (h : cfg.ok = true) : 128 ≤ cfg.memSize ∧ 128 ≤ cfg.mmioBase ∧ cfg.haltPc ≠ 0#32 := by
  simp only [Config.ok, Bool.and_eq_true, Bool.or_eq_true, decide_eq_true_eq] at h
  obtain ⟨⟨⟨⟨⟨⟨⟨⟨⟨-, -⟩, hmem⟩, -⟩, -⟩, hbase⟩, -⟩, hhalt⟩, -⟩, -⟩ := h
  refine ⟨hmem, hbase, fun e => ?_⟩
  rw [e] at hhalt
  simp at hhalt
  omega

/-- The tick that `startSingle` starts is ready to fetch at address 0. -/
theorem State.startSingle_readyToFetch {s : State} (h : s.cfg.ok = true) : s.startSingle.readyToFetch = true := by
  obtain ⟨hmem, hbase, hhalt⟩ := Config.zero_of_ok h
  refine readyToFetch_iff.2 ⟨⟨rfl, rfl, ⟨.fresh, [], ?_, by decide⟩, ?_, ?_, ?_, ?_⟩, ?_, ?_⟩
  all_goals rw [startSingle, withVm_vm]
  · rfl
  · rfl
  · rfl
  · exact hhalt.symm
  · rfl
  · show 0 + 4 ≤ s.cfg.memSize
    omega
  · simpa [touchesWindow, VM.startTick, Size.bytes] using fun _ _ => by omega

/-- Settles O43: the state the word is stored in, found or made, is ready to fetch it. -/
theorem placedWordRunsNext : Obligations.PlacedWordRunsNext := by
  intro s w hs hd
  have placed : ∀ s' : State, s'.readyToFetch = true → s'.vm.mem.wf = true → decodable s'.cfg w = true →
      fetchWord (s'.pokeAtPc w).cfg (s'.pokeAtPc w).vm (s'.pokeAtPc w).vm.cpu.pc = .ok w ∧
        step (s'.pokeAtPc w) = finished (exec (decodeWord s'.cfg.fpCodes w) (s'.pokeAtPc w).claim) := by
    intro s' hr hm hd'
    have hf := State.fetchWord_pokeAtPc hr hm w
    exact ⟨hf, (State.readyToFetch_iff.1 ((s'.readyToFetch_pokeAtPc w).trans hr)).1.step_exec hf hd'⟩
  have hword : BitVec.ofNat 32 (w.toNat % 2 ^ 32) = w := by
    rw [Nat.mod_eq_of_lt w.isLt, BitVec.ofNat_toNat, BitVec.setWidth_eq]
  have hmem : s.vm.mem.wf = true := (hs.vms s.cur).memForm
  simp only [State.withFetchWord, hword, State.placeWord]
  split
  · next hr => exact placed s hr hmem hd
  · refine placed s.startSingle (State.startSingle_readyToFetch hs.config) ?_ hd
    rw [State.startSingle, State.withVm_vm]
    exact hmem

end Sys2Proof.Machine
end

section
/-! Loads and stores (O8, O13, O14, O16, O31): where an access goes decides what its instruction answers. -/

namespace Sys2Proof.Machine

/-! ### The bytes of data and of the fetch (R62) -/

/-- A byte read back from a word store. -/
theorem Memory.load_byte_store_word {m : Memory} (h : m.wf = true) (a : Nat) (v : Word) {i : Nat} (hi : i < 4) :
    (m.store a .word v).load (a + i) .byte = (byteOf v i).setWidth 32 := by
  rw [load, get_store_inside (n := .word) h a v hi]

/-- A halfword read back from a word store. -/
theorem Memory.load_half_store_word {m : Memory} (h : m.wf = true) (a : Nat) (v : Word) {i : Nat} (hi : i < 3) :
    (m.store a .word v).load (a + i) .half = (byteOf v (i + 1) ++ byteOf v i).setWidth 32 := by
  rw [load, Nat.add_assoc, get_store_inside (n := .word) h a v (show i + 1 < 4 by omega),
    get_store_inside (n := .word) h a v (show i < 4 by omega)]

/-- Settles O8, from the definition of a load and the bytes of a word store. -/
theorem littleEndian : Obligations.LittleEndian := by
  refine ⟨fun m a => ⟨rfl, rfl, rfl⟩, fun cfg vm ia w h => ?_, fun m a hw => ⟨?_, ?_, ?_⟩⟩
  · unfold fetchWord at h
    split at h
    · cases h
    · split at h
      · cases h
      · exact (Except.ok.inj h).symm
  · exact (Memory.load_byte_store_word hw a _ (i := 0) (by decide)).trans (by decide)
  · exact (Memory.load_byte_store_word hw a _ (i := 1) (by decide)).trans (by decide)
  · exact (Memory.load_half_store_word hw a _ (i := 2) (by decide)).trans (by decide)

/-! ### Where an access goes (R63 to R65, R67, R72) -/

theorem readKind_of_window {cfg : Config} {a : Nat} {n : Size} (h : touchesWindow cfg a n = true) :
    readKind cfg a n = .window := if_pos h

theorem readKind_of_fits {cfg : Config} {a : Nat} {n : Size} (hw : touchesWindow cfg a n = false)
    (hfit : a + n.bytes ≤ cfg.memSize) (ha : a % n.bytes = 0 ∨ cfg.allowMisaligned = true) : readKind cfg a n = .plain := by
  unfold readKind
  rw [if_neg (by simp [hw]), if_neg (Nat.not_lt.2 hfit), if_neg (by rcases ha with ha | ha <;> simp [isMisaligned, ha])]

theorem readKind_outOfRange {cfg : Config} {a : Nat} {n : Size} (hw : touchesWindow cfg a n = false)
    (hbig : cfg.memSize < a + n.bytes) : readKind cfg a n = .refused .outOfRange := by
  unfold readKind
  rw [if_neg (by simp [hw]), if_pos hbig]

theorem readKind_misaligned {cfg : Config} {a : Nat} {n : Size} (hw : touchesWindow cfg a n = false)
    (hfit : a + n.bytes ≤ cfg.memSize) (ha : a % n.bytes ≠ 0) (hc : cfg.allowMisaligned = false) :
    readKind cfg a n = .refused .misalignedAccess := by
  unfold readKind
  rw [if_neg (by simp [hw]), if_neg (Nat.not_lt.2 hfit), if_pos (by simp [isMisaligned, ha, hc])]

/-- A word at a pixel's address touches the window. -/
theorem touchesWindow_of_isPixelAddress {cfg : Config} {a : Nat} (h : isPixelAddress cfg a = true) :
    touchesWindow cfg a .word = true := by
  obtain ⟨-, hlo, hhi⟩ := isPixelAddress_iff.1 h
  simp only [touchesWindow, Bool.and_eq_true, decide_eq_true_eq]
  exact ⟨⟨by omega, hhi⟩, Nat.lt_add_right_iff_pos.2 (show 0 < 4 by decide) |>.trans_le' hlo⟩

/-- Outside the window a write goes where a read goes. -/
theorem writeKind_of_not_window {cfg : Config} {a : Nat} {n : Size} (hw : touchesWindow cfg a n = false) :
    (readKind cfg a n = .plain → writeKind cfg a n = .plain) ∧
      ∀ r, readKind cfg a n = .refused r → writeKind cfg a n = .refused r := by
  have hpixel : (decide (n = .word) && isPixelAddress cfg a) = false := by
    by_contra hp
    simp only [Bool.not_eq_false, Bool.and_eq_true, decide_eq_true_eq] at hp
    obtain ⟨rfl, hp⟩ := hp
    rw [touchesWindow_of_isPixelAddress hp] at hw
    cases hw
  simp only [readKind, writeKind, hw, hpixel, Bool.false_eq_true, if_false]
  split
  · simp
  · split <;> simp

theorem writeKind_of_pixel {cfg : Config} {a : Nat} (h : isPixelAddress cfg a = true) : writeKind cfg a .word = .pixel := by
  simp [writeKind, h]

theorem writeKind_of_window {cfg : Config} {a : Nat} {n : Size} (hw : touchesWindow cfg a n = true)
    (hp : n = .word → isPixelAddress cfg a = false) : writeKind cfg a n = .refused .windowStore := by
  have hpixel : ¬ (decide (n = .word) && isPixelAddress cfg a) = true := by
    simpa using hp
  unfold writeKind
  rw [if_neg hpixel, if_pos hw]

/-! ### MemRead and MemWrite (R63, R64) -/

section
variable {cfg : Config} {a : Word} {n : Size}

theorem memRead_plain (h : readKind cfg a.toNat n = .plain) (c : Ctx) :
    memRead cfg c a n = .ok (c.vm.mem.load a.toNat n, c) := by rw [memRead, h]

theorem memRead_window (h : readKind cfg a.toNat n = .window) (c : Ctx) :
    memRead cfg c a n = .ok (n.trunc (Config.freeWord c.free), { c with free := c.free + 1 }) := by rw [memRead, h]; rfl

theorem memRead_refused {r : Refusal} (h : readKind cfg a.toNat n = .refused r) (c : Ctx) :
    memRead cfg c a n = .error r := by rw [memRead, h]

theorem memWrite_plain (h : writeKind cfg a.toNat n = .plain) (c : Ctx) (v : Word) :
    memWrite cfg c a n v = .ok { c with vm := c.vm.storeMem a.toNat n v } := by rw [memWrite, h]

theorem memWrite_pixel (h : writeKind cfg a.toNat n = .pixel) (c : Ctx) (v : Word) :
    memWrite cfg c a n v = .ok { c with vm := c.vm.issuePixel (pixelStore cfg a.toNat v) } := by rw [memWrite, h]

theorem memWrite_refused {r : Refusal} (h : writeKind cfg a.toNat n = .refused r) (c : Ctx) (v : Word) :
    memWrite cfg c a n v = .error r := by rw [memWrite, h]

end

/-! ### The load and store forms (R210, R211) -/

/-- A unit alone reads two registers as they are. -/
theorem readBoth_run (cfg : Config) (r q : RegIx) (k : Word → Word → Act) (c : Ctx) :
    (readBoth r q k).run cfg c = (k (c.vm.reg r) (c.vm.reg q)).run cfg c := by
  simp [readBoth, Act.run, Event.perform]

/-- The effective address of a load or store (R210). -/
def State.effective (s : State) (rs1 : RegIx) (imm : BitVec 12) : Word := s.reg rs1 + sext12 imm

section
variable {s : State} {rd rs1 rs2 : RegIx} {imm : BitVec 12} {n : Size} {ext : Word → Word}

/-- A load answers what its read answers. -/
theorem State.execute_load {v : Word} {c : Ctx} (h : memRead s.cfg s.ctx (s.effective rs1 imm) n = .ok (v, c)) :
    s.execute (loadForm rd rs1 imm n ext) =
      .next ((s.withCtx { c with vm := c.vm.setReg rd (ext v) }).setNext (s.ia + 4#32) false) := by
  simp only [execute, loadForm, Act.run, Event.perform]
  rw [show memRead s.cfg s.ctx (s.ctx.vm.reg rs1 + sext12 imm) n = _ from h]
  rfl

theorem State.execute_load_refused {r : Refusal} (h : readKind s.cfg (s.effective rs1 imm).toNat n = .refused r) :
    s.execute (loadForm rd rs1 imm n ext) = .refused r := by
  simp only [execute, loadForm, Act.run, Event.perform]
  rw [show memRead s.cfg s.ctx (s.ctx.vm.reg rs1 + sext12 imm) n = _ from memRead_refused h _]

/-- R63 case of plain memory: a load puts the extended bytes in rd. -/
theorem State.execute_load_plain (h : readKind s.cfg (s.effective rs1 imm).toNat n = .plain) :
    s.execute (loadForm rd rs1 imm n ext) =
      .next (s.completes rd (ext (s.vm.mem.load (s.effective rs1 imm).toNat n))) :=
  execute_load (memRead_plain h _)

/-- R72: a load that touches the window puts a drawn value in rd. -/
theorem State.execute_load_window (h : touchesWindow s.cfg (s.effective rs1 imm).toNat n = true) :
    s.execute (loadForm rd rs1 imm n ext) =
      .next { s.completes rd (ext (n.trunc (Config.freeWord s.free))) with free := s.free + 1 } :=
  execute_load (memRead_window (readKind_of_window h) _)

/-- A store answers what its write answers. -/
theorem State.execute_store {c : Ctx} (h : memWrite s.cfg s.ctx (s.effective rs1 imm) n (s.reg rs2) = .ok c) :
    s.execute (storeForm rs2 rs1 imm n) = .next ((s.withCtx c).setNext (s.ia + 4#32) false) := by
  simp only [execute, storeForm, readBoth_run, Act.run, Event.perform]
  rw [show memWrite s.cfg s.ctx (s.ctx.vm.reg rs1 + sext12 imm) n (s.ctx.vm.reg rs2) = _ from h]
  rfl

theorem State.execute_store_refused {r : Refusal} (h : writeKind s.cfg (s.effective rs1 imm).toNat n = .refused r) :
    s.execute (storeForm rs2 rs1 imm n) = .refused r := by
  simp only [execute, storeForm, readBoth_run, Act.run, Event.perform]
  rw [show memWrite s.cfg s.ctx (s.ctx.vm.reg rs1 + sext12 imm) n (s.ctx.vm.reg rs2) = _ from memWrite_refused h _ _]

/-- R64 case 2: a store to plain memory. -/
theorem State.execute_store_plain (h : writeKind s.cfg (s.effective rs1 imm).toNat n = .plain) :
    s.execute (storeForm rs2 rs1 imm n) =
      .next ((s.withVm (s.vm.storeMem (s.effective rs1 imm).toNat n (s.reg rs2))).setNext (s.ia + 4#32) false) :=
  execute_store (memWrite_plain h _ _)

/-- R64 case 1, R70: a store that issues a pixel transaction. -/
theorem State.execute_store_pixel (h : writeKind s.cfg (s.effective rs1 imm).toNat n = .pixel) :
    s.execute (storeForm rs2 rs1 imm n) =
      .next ((s.withVm (s.vm.issuePixel (pixelStore s.cfg (s.effective rs1 imm).toNat (s.reg rs2)))).setNext
        (s.ia + 4#32) false) :=
  execute_store (memWrite_pixel h _ _)

end

/-! ### The results -/

/-- R213, R216, R214, R217: the extensions of a loaded byte or halfword, of memory or drawn. -/
theorem sextByte_setWidth (b : Byte) : sextByte (b.setWidth 32) = b.signExtend 32 := by simp [sextByte]
theorem zextByte_setWidth (b : Byte) : zextByte (b.setWidth 32) = b.setWidth 32 := by simp [zextByte]
theorem sextHalf_setWidth (b : BitVec 16) : sextHalf (b.setWidth 32) = b.signExtend 32 := by simp [sextHalf]
theorem zextHalf_setWidth (b : BitVec 16) : zextHalf (b.setWidth 32) = b.setWidth 32 := by simp [zextHalf]

/-- Settles O13: each load is the load form of its width, and its extension undoes the widening of what is read. -/
theorem loadResults : Obligations.LoadResults := by
  intro s rd rs1 imm
  refine ⟨fun ⟨hw, hfit, ha⟩ => ?_, fun ⟨hw, hfit, ha⟩ => ?_, fun ⟨hw, hfit, ha⟩ => ?_, fun hw => ?_, fun hw => ?_,
    fun hw => State.execute_load_window hw⟩
  · have hk := readKind_of_fits hw hfit ha
    exact ⟨(State.execute_load_plain hk).trans (by rw [Memory.load, sextByte_setWidth]; rfl),
      (State.execute_load_plain hk).trans (by rw [Memory.load, zextByte_setWidth]; rfl)⟩
  · have hk := readKind_of_fits hw hfit ha
    exact ⟨(State.execute_load_plain hk).trans (by rw [Memory.load, sextHalf_setWidth]; rfl),
      (State.execute_load_plain hk).trans (by rw [Memory.load, zextHalf_setWidth]; rfl)⟩
  · exact State.execute_load_plain (readKind_of_fits hw hfit ha)
  · exact ⟨(State.execute_load_window hw).trans (by rw [Size.trunc, sextByte_setWidth]),
      (State.execute_load_window hw).trans (by rw [Size.trunc, zextByte_setWidth])⟩
  · exact ⟨(State.execute_load_window hw).trans (by rw [Size.trunc, sextHalf_setWidth]),
      (State.execute_load_window hw).trans (by rw [Size.trunc, zextHalf_setWidth])⟩

/-- Settles O14: each store is the store form of its width, and where it goes decides what it writes. -/
theorem storeResults : Obligations.StoreResults := by
  intro s rs2 rs1 imm
  have plain : ∀ n : Size, touchesWindow s.cfg (s.effective rs1 imm).toNat n = false →
      (s.effective rs1 imm).toNat + n.bytes ≤ s.cfg.memSize →
      ((s.effective rs1 imm).toNat % n.bytes = 0 ∨ s.cfg.allowMisaligned = true) →
      s.execute (storeForm rs2 rs1 imm n) =
        .next ((s.withVm (s.vm.storeMem (s.effective rs1 imm).toNat n (s.reg rs2))).setNext (s.ia + 4#32) false) :=
    fun n hw hfit ha => State.execute_store_plain ((writeKind_of_not_window hw).1 (readKind_of_fits hw hfit ha))
  refine ⟨fun ⟨hw, hfit, ha⟩ => plain .byte hw hfit ha, fun ⟨hw, hfit, ha⟩ => plain .half hw hfit ha,
    fun ⟨hw, hfit, ha⟩ => plain .word hw hfit ha, fun ha hlo hhi => ?_⟩
  exact State.execute_store_pixel (writeKind_of_pixel (isPixelAddress_iff.2 ⟨ha, hlo, hhi⟩))

/-- Settles O16: a load or store whose access goes nowhere is refused as the access is. -/
theorem accessesWithoutMeaningAreRefused : Obligations.AccessesWithoutMeaningAreRefused := by
  intro s rd rs2 rs1 imm a loads stores
  have load : ∀ x ∈ loads, ∃ ext, exec x.2 s = s.execute (loadForm rd rs1 imm x.1 ext) := by
    simp only [loads, List.forall_mem_cons]
    exact ⟨⟨_, rfl⟩, ⟨_, rfl⟩, ⟨_, rfl⟩, ⟨_, rfl⟩, ⟨_, rfl⟩, by simp⟩
  have store : ∀ x ∈ stores, exec x.2 s = s.execute (storeForm rs2 rs1 imm x.1) := by
    simp only [stores, List.forall_mem_cons]
    exact ⟨rfl, rfl, rfl, by simp⟩
  -- outside the window a store is refused as a load there would be
  have both : ∀ x ∈ loads ++ stores, ∀ r, touchesWindow s.cfg a x.1 = false → readKind s.cfg a x.1 = .refused r →
      exec x.2 s = .refused r := by
    intro x hx r hw hk
    rcases List.mem_append.1 hx with hx | hx
    · obtain ⟨ext, he⟩ := load x hx
      exact he.trans (State.execute_load_refused hk)
    · exact (store x hx).trans (State.execute_store_refused ((writeKind_of_not_window hw).2 r hk))
  refine ⟨fun x hx hw hbig => both x hx _ hw (readKind_outOfRange hw hbig),
    fun x hx hw hfit ha hc => both x hx _ hw (readKind_misaligned hw hfit ha hc), fun x hx hw hp => ?_⟩
  exact (store x hx).trans (State.execute_store_refused (writeKind_of_window hw hp))

/-! ### The frame of the stores -/

/-- The VM of the tick after an instruction has replaced it and recorded its next-address. -/
theorem State.setNext_withVm_vm (s : State) (vm : VM) (next : Word) (stop : Bool) :
    ∃ u x, ((s.withVm vm).setNext next stop).vm = vm.setUnit u x := by
  rw [setNext_vm, withVm_vm]
  exact ⟨_, _, rfl⟩

/-- A store that completes is a store to plain memory or one pixel transaction, and draws nothing. -/
theorem State.execute_store_next {s t : State} {rs2 rs1 : RegIx} {imm : BitVec 12} {n : Size}
    (h : s.execute (storeForm rs2 rs1 imm n) = .next t) :
    t.free = s.free ∧ ∃ u x,
      writeKind s.cfg (s.effective rs1 imm).toNat n = .plain ∧
          t.vm = (s.vm.storeMem (s.effective rs1 imm).toNat n (s.reg rs2)).setUnit u x ∨
        writeKind s.cfg (s.effective rs1 imm).toNat n = .pixel ∧
          t.vm = (s.vm.issuePixel (pixelStore s.cfg (s.effective rs1 imm).toNat (s.reg rs2))).setUnit u x := by
  cases hk : writeKind s.cfg (s.effective rs1 imm).toNat n with
  | refused r =>
    rw [execute_store_refused hk] at h
    cases h
  | plain =>
    rw [execute_store_plain hk] at h
    cases h
    obtain ⟨u, x, hvm⟩ := s.setNext_withVm_vm _ _ _
    exact ⟨rfl, u, x, .inl ⟨rfl, hvm⟩⟩
  | pixel =>
    rw [execute_store_pixel hk] at h
    cases h
    obtain ⟨u, x, hvm⟩ := s.setNext_withVm_vm _ _ _
    exact ⟨rfl, u, x, .inr ⟨rfl, hvm⟩⟩

/-- Settles O31, by the two ways a store completes. -/
theorem storesFrame : Obligations.StoresFrame := by
  intro s t rs2 rs1 imm n hm a h
  have hform : s.execute (storeForm rs2 rs1 imm n) = .next t := by cases n <;> exact h
  obtain ⟨hfree, u, x, hvm⟩ := State.execute_store_next hform
  refine ⟨exec_sameOutside h, ?_, hfree, fun hk => ?_, fun hk => ?_⟩
  · rcases hvm with ⟨-, hvm⟩ | ⟨-, hvm⟩
    · constructor <;> rw [hvm] <;> rfl
    · constructor <;> rw [hvm] <;> rfl
  · obtain ⟨-, hvm⟩ := hvm.resolve_right fun hp => by cases hk.symm.trans hp.1
    have hbyte : ∀ b, t.byte b = (s.vm.mem.store a n (s.reg rs2)).get b := fun b => congrArg (·.mem.get b) hvm
    have houtside : ∀ b, b < a ∨ a + n.bytes ≤ b → t.byte b = s.byte b := fun b hb =>
      (hbyte b).trans (Memory.get_store_of_outside hm _ hb)
    exact ⟨congrArg (·.pixels) hvm, fun k hkn => (hbyte _).trans (Memory.get_store_inside hm a _ hkn), houtside,
      fun q hq => VM.reg_congr fun i hi => houtside _ (by omega)⟩
  · obtain ⟨-, hvm⟩ := hvm.resolve_left fun hp => hk hp.1
    exact ⟨fun b => congrArg (·.mem.get b) hvm, congrArg (·.pixels) hvm⟩

end Sys2Proof.Machine
end

section
/-! The console write (O29): the bytes it reads, each of memory or drawn, and the console that takes them up to its
capacity. -/

namespace Sys2Proof.Machine

/-! ### Appending to the console (R284, R368) -/

/-- The VM after these bytes are appended to its console, one after the other. -/
def VM.appendAll (cfg : Config) (vm : VM) (bytes : List Byte) : VM := bytes.foldl (VM.appendConsole cfg) vm

/-- Appends change the console and its length only. -/
theorem VM.appendAll_eq (cfg : Config) (vm : VM) (bytes : List Byte) :
    vm.appendAll cfg bytes = { vm with
      console := (vm.appendAll cfg bytes).console, consoleLen := (vm.appendAll cfg bytes).consoleLen } := by
  induction bytes generalizing vm with
  | nil => rfl
  | cons b rest ih =>
    refine (ih (vm.appendConsole cfg b)).trans ?_
    simp only [VM.appendConsole_mem, VM.appendConsole_cpu, VM.appendConsole_vmStatus, VM.appendConsole_ring,
      VM.appendConsole_ringCtr, VM.appendConsole_prof, VM.appendConsole_pixels, VM.appendConsole_tick]
    rfl

/-- The console has CONSOLE_CAP bytes, of which `consoleLen` are filled (R43, R368). -/
structure VM.ConsoleOk (cfg : Config) (vm : VM) : Prop where
  size : vm.console.length = cfg.consoleCap
  fill : vm.consoleLen ≤ cfg.consoleCap

theorem VM.ConsoleOk.append {cfg : Config} {vm : VM} (h : vm.ConsoleOk cfg) (b : Byte) :
    (vm.appendConsole cfg b).ConsoleOk cfg := by
  unfold VM.appendConsole
  split
  · next hlt => exact ⟨by simpa using h.size, hlt⟩
  · exact h

/-- What the host drains never exceeds the capacity. -/
theorem VM.ConsoleOk.length_text {cfg : Config} {vm : VM} (h : vm.ConsoleOk cfg) : vm.consoleText.length = vm.consoleLen := by
  rw [VM.consoleText, List.length_take, h.size, Nat.min_eq_left h.fill]

/-- A byte is appended where there is room. -/
theorem VM.ConsoleOk.text_append {cfg : Config} {vm : VM} (h : vm.ConsoleOk cfg) (b : Byte) :
    (vm.appendConsole cfg b).consoleText = (vm.consoleText ++ [b]).take cfg.consoleCap := by
  unfold VM.appendConsole
  split
  · next hlt =>
    have hin : vm.consoleLen < vm.console.length := h.size ▸ hlt
    rw [List.take_of_length_le (by simpa [h.length_text] using hlt)]
    rw [VM.consoleText, VM.consoleText, List.take_add_one, List.take_set_of_le (Nat.le_refl _),
      List.getElem?_set_self hin]
    rfl
  · next hge =>
    rw [List.take_append_of_le_length (by rw [h.length_text]; omega),
      List.take_of_length_le (by rw [h.length_text]; exact h.fill)]

/-- Cutting a first part that is cut again with the rest. -/
theorem take_take_append {α : Type} (l r : List α) (n : Nat) : (l.take n ++ r).take n = (l ++ r).take n := by
  rw [List.take_append, List.take_append, List.take_take, Nat.min_self, List.length_take]
  congr 2
  omega

/-- Bytes appended one after the other are cut at the capacity. -/
theorem VM.ConsoleOk.text_appendAll {cfg : Config} {vm : VM} (h : vm.ConsoleOk cfg) (bytes : List Byte) :
    (vm.appendAll cfg bytes).consoleText = (vm.consoleText ++ bytes).take cfg.consoleCap := by
  induction bytes generalizing vm with
  | nil =>
    rw [List.append_nil, List.take_of_length_le (by rw [h.length_text]; exact h.fill)]
    rfl
  | cons b rest ih =>
    refine (ih (h.append b)).trans ?_
    rw [h.text_append b, take_take_append, List.append_assoc, List.singleton_append]

/-! ### The bytes a console write reads (R284, log entries 6 and 20) -/

/-- The address of byte `k` from `ptr` on, which wraps modulo 2^32. -/
def consoleAddr (ptr : Word) (k : Nat) : Nat := (ptr.toNat + k) % 2 ^ 32

/-- Byte `k` lies in the display window. -/
def consoleDraws (cfg : Config) (ptr : Word) (k : Nat) : Bool := touchesWindow cfg (consoleAddr ptr k) .byte

/-- Byte `k` as it is read: a draw of its own in the window, else the byte of memory. -/
def consoleByte (cfg : Config) (m : Memory) (free : Nat) (ptr : Word) (k : Nat) : Byte :=
  if consoleDraws cfg ptr k = true then
    (Config.freeWord (free + (List.range k).countP (consoleDraws cfg ptr))).setWidth 8
  else m.get (consoleAddr ptr k)

theorem consoleAddr_zero (ptr : Word) : consoleAddr ptr 0 = ptr.toNat := Nat.mod_eq_of_lt ptr.isLt

theorem consoleAddr_succ (ptr : Word) (k : Nat) : consoleAddr ptr (k + 1) = consoleAddr (ptr + 1#32) k := by
  simp only [consoleAddr, BitVec.toNat_add, BitVec.toNat_ofNat]
  omega

theorem consoleDraws_succ (cfg : Config) (ptr : Word) (k : Nat) :
    consoleDraws cfg ptr (k + 1) = consoleDraws cfg (ptr + 1#32) k := by
  rw [consoleDraws, consoleAddr_succ, consoleDraws]

/-- The draws among the first bytes: of the first, and of those after it. -/
theorem countP_consoleDraws_succ (cfg : Config) (ptr : Word) (n : Nat) :
    (List.range (n + 1)).countP (consoleDraws cfg ptr) =
      (if consoleDraws cfg ptr 0 = true then 1 else 0) + (List.range n).countP (consoleDraws cfg (ptr + 1#32)) := by
  have : consoleDraws cfg ptr ∘ Nat.succ = consoleDraws cfg (ptr + 1#32) := funext fun k => consoleDraws_succ cfg ptr k
  rw [List.range_succ_eq_map, List.countP_cons, List.countP_map, this, Nat.add_comm]

theorem consoleByte_succ (cfg : Config) (m : Memory) (free : Nat) (ptr : Word) (k : Nat) :
    consoleByte cfg m free ptr (k + 1) =
      consoleByte cfg m (free + if consoleDraws cfg ptr 0 = true then 1 else 0) (ptr + 1#32) k := by
  simp only [consoleByte, consoleDraws_succ, consoleAddr_succ, countP_consoleDraws_succ, Nat.add_assoc]

/-- The bytes read: the first, then those from the next address on. -/
theorem map_consoleByte_succ (cfg : Config) (m : Memory) (free : Nat) (ptr : Word) (n : Nat) :
    (List.range (n + 1)).map (consoleByte cfg m free ptr) =
      consoleByte cfg m free ptr 0 ::
        (List.range n).map (consoleByte cfg m (free + if consoleDraws cfg ptr 0 = true then 1 else 0) (ptr + 1#32)) := by
  rw [List.range_succ_eq_map, List.map_cons, List.map_map]
  exact congrArg _ (List.map_congr_left fun k _ => consoleByte_succ cfg m free ptr k)

/-! ### The copy -/

/-- The read of one byte that is in the window or inside memory. -/
theorem memRead_consoleByte {cfg : Config} {c : Ctx} {ptr : Word}
    (h : consoleDraws cfg ptr 0 = true ∨ consoleAddr ptr 0 < cfg.memSize) :
    ∃ v, memRead cfg c ptr .byte = .ok (v, { c with free := c.free + if consoleDraws cfg ptr 0 = true then 1 else 0 }) ∧
      v.setWidth 8 = consoleByte cfg c.vm.mem c.free ptr 0 := by
  rw [consoleDraws, consoleAddr_zero] at h
  simp only [consoleByte, consoleDraws, consoleAddr_zero]
  by_cases hw : touchesWindow cfg ptr.toNat .byte = true
  · simp only [hw, if_true]
    exact ⟨_, memRead_window (readKind_of_window hw) c, by simp [Size.trunc]⟩
  · have hw' : touchesWindow cfg ptr.toNat .byte = false := by simpa using hw
    have hfit : ptr.toNat + Size.byte.bytes ≤ cfg.memSize := h.resolve_left hw
    simp only [hw]
    exact ⟨_, memRead_plain (readKind_of_fits hw' hfit (.inl (Nat.mod_one _))) c, by simp [Memory.load]⟩

/-- Bytes that are all in the window or inside memory are appended in order. -/
theorem copyToConsole_run {cfg : Config} {k : Act} {n : Nat} {ptr : Word} {c : Ctx}
    (h : ∀ i < n, consoleDraws cfg ptr i = true ∨ consoleAddr ptr i < cfg.memSize) :
    (copyToConsole k n ptr).run cfg c = k.run cfg { c with
      vm := c.vm.appendAll cfg ((List.range n).map (consoleByte cfg c.vm.mem c.free ptr))
      free := c.free + (List.range n).countP (consoleDraws cfg ptr) } := by
  induction n generalizing ptr c with
  | zero => rfl
  | succ n ih =>
    obtain ⟨v, hread, hv⟩ := memRead_consoleByte (c := c) (h 0 n.succ_pos)
    have hrest := fun i (hi : i < n) => h (i + 1) (Nat.succ_lt_succ hi)
    simp only [consoleDraws_succ, consoleAddr_succ] at hrest
    simp only [copyToConsole, Act.run, Event.perform, hread, ih hrest, hv, VM.appendConsole_mem]
    rw [map_consoleByte_succ, countP_consoleDraws_succ, Nat.add_assoc]
    rfl

/-- A byte past memory and outside the window refuses the copy. -/
theorem copyToConsole_refused {cfg : Config} {k : Act} {n : Nat} {ptr : Word} {c : Ctx}
    (h : ∃ i < n, consoleDraws cfg ptr i = false ∧ cfg.memSize ≤ consoleAddr ptr i) :
    (copyToConsole k n ptr).run cfg c = .error .outOfRange := by
  induction n generalizing ptr c with
  | zero => obtain ⟨i, hi, -⟩ := h; omega
  | succ n ih =>
    by_cases hfirst : consoleDraws cfg ptr 0 = true ∨ consoleAddr ptr 0 < cfg.memSize
    · obtain ⟨v, hread, -⟩ := memRead_consoleByte (c := c) hfirst
      have hrest : ∃ i < n, consoleDraws cfg (ptr + 1#32) i = false ∧ cfg.memSize ≤ consoleAddr (ptr + 1#32) i := by
        obtain ⟨_ | i, hi, hw, hbig⟩ := h
        · rcases hfirst with hf | hf
          · rw [hf] at hw; cases hw
          · omega
        · exact ⟨i, Nat.lt_of_succ_lt_succ hi, consoleDraws_succ cfg ptr i ▸ hw, consoleAddr_succ ptr i ▸ hbig⟩
      simp only [copyToConsole, Act.run, Event.perform, hread, ih hrest]
    · simp only [not_or, Bool.not_eq_true, Nat.not_lt, consoleDraws, consoleAddr_zero] at hfirst
      have hread := memRead_refused (readKind_outOfRange hfirst.1 (Nat.lt_succ_of_le hfirst.2)) c
      simp only [copyToConsole, Act.run, Event.perform, hread]

/-! ### The instruction (R282, R284) -/

/-- With descriptor 1 the console write is the copy of its bytes. -/
theorem ecall_copy_run {cfg : Config} {pc : Word} {c : Ctx} (h17 : c.vm.reg 17#5 = 64#32) (h10 : c.vm.reg 10#5 = 1#32) :
    (meaningOf .ecall cfg pc).run cfg c =
      (copyToConsole (fallThrough pc) (c.vm.reg 12#5).toNat (c.vm.reg 11#5)).run cfg c := by
  simp only [meaningOf, actEcall, consoleWrite, Act.run, Event.perform, h17, h10, if_true]

/-- With another descriptor it is nothing. -/
theorem ecall_nothing_run {cfg : Config} {pc : Word} {c : Ctx} (h17 : c.vm.reg 17#5 = 64#32)
    (h10 : c.vm.reg 10#5 ≠ 1#32) : (meaningOf .ecall cfg pc).run cfg c = .ok ⟨pc + 4#32, false, c⟩ := by
  simp only [meaningOf, actEcall, consoleWrite, Act.run, Event.perform, h17, h10, if_true, if_false, fallThrough]

theorem State.execute_of_ok {s : State} {m : Meaning} {d : Done} (h : (m s.cfg s.ia).run s.cfg s.ctx = .ok d) :
    s.execute m = .next ((s.withCtx d.ctx).setNext d.next d.stop) := by rw [execute, h]

theorem State.execute_of_error {s : State} {m : Meaning} {r : Refusal}
    (h : (m s.cfg s.ia).run s.cfg s.ctx = .error r) : s.execute m = .refused r := by rw [execute, h]

/-- The bytes that a console write appends: x12 of them from x11 on. -/
def State.consoleBytes (s : State) : List Byte :=
  (List.range (s.reg 12#5).toNat).map (consoleByte s.cfg s.vm.mem s.free (s.reg 11#5))

/-- A console write whose bytes are all in the window or inside memory appends them. -/
theorem exec_ecall_appends {s : State} (h17 : s.reg 17#5 = 64#32) (h10 : s.reg 10#5 = 1#32)
    (h : ∀ k < (s.reg 12#5).toNat,
      consoleDraws s.cfg (s.reg 11#5) k = true ∨ consoleAddr (s.reg 11#5) k < s.cfg.memSize) :
    exec .ecall s = .next { (s.withVm (s.vm.appendAll s.cfg s.consoleBytes)).setNext (s.ia + 4#32) false with
      free := s.free + (List.range (s.reg 12#5).toNat).countP (consoleDraws s.cfg (s.reg 11#5)) } :=
  State.execute_of_ok (m := meaningOf .ecall) ((ecall_copy_run (c := s.ctx) h17 h10).trans (copyToConsole_run h))

/-- Settles O29: with descriptor 1 the ECALL is the copy of its bytes, which is refused or appends them, else it does
nothing. -/
theorem consoleWriteResult : Obligations.ConsoleWriteResult := by
  intro s h17 hsize hfill
  refine ⟨fun h10 => ?_, fun h10 => ⟨fun hbad => ?_, fun hok => ⟨_, exec_ecall_appends h17 h10 hok, ?_⟩⟩⟩
  · have he := State.execute_of_ok (ecall_nothing_run (c := s.ctx) (pc := s.ia) h17 h10)
    rwa [State.ctx, State.withCtx_ctx, State.withVm_self] at he
  · exact State.execute_of_error ((ecall_copy_run (c := s.ctx) h17 h10).trans (copyToConsole_refused hbad))
  · obtain ⟨u, x, hvm⟩ := s.setNext_withVm_vm (s.vm.appendAll s.cfg s.consoleBytes) (s.ia + 4#32) false
    refine ⟨(congrArg VM.consoleText hvm).trans (VM.ConsoleOk.text_appendAll ⟨hsize, hfill⟩ _), ?_⟩
    refine congrArg (fun vm => ({ (s.withVm vm).setNext (s.ia + 4#32) false with free := _ } : State))
      ((s.vm.appendAll_eq s.cfg s.consoleBytes).trans ?_)
    exact congrArg₂ (fun c l => ({ s.vm with console := c, consoleLen := l } : VM))
      (congrArg VM.console hvm).symm (congrArg VM.consoleLen hvm).symm

end Sys2Proof.Machine
end

section
/-! The word formats (O2, O3, O5): the bits of the raw immediates, and the word put together again from its fields. -/

namespace Sys2Proof

/-! ### The bits of the raw immediates (R103 to R107) -/

theorem Fields.imm12I_getElem (w : Word) {k : Nat} (hk : k < 12) : (Fields.imm12I w)[k] = w.getLsbD (20 + k) := by
  simp [imm12I]

theorem Fields.imm12S_getElem (w : Word) {k : Nat} (hk : k < 12) :
    (Fields.imm12S w)[k] = w.getLsbD (if k < 5 then 7 + k else 20 + k) := by
  rw [← BitVec.getLsbD_eq_getElem]
  refine (BitVec.getLsbD_append (x := w.extractLsb' 25 7) (y := w.extractLsb' 7 5)).trans ?_
  simp only [BitVec.getLsbD_extractLsb']
  interval_cases k <;> simp

theorem Fields.imm13B_getElem (w : Word) {k : Nat} (hk : k < 13) :
    (Fields.imm13B w)[k] =
      (decide (0 < k) && w.getLsbD (if k < 5 then 7 + k else if k < 11 then 20 + k else if k = 11 then 7 else 31)) := by
  rw [← BitVec.getLsbD_eq_getElem]
  refine (show _ = (w.extractLsb' 31 1 ++ w.extractLsb' 7 1 ++ w.extractLsb' 25 6 ++ w.extractLsb' 8 4 ++ 0#1 :
    BitVec (1 + 1 + 6 + 4 + 1)).getLsbD k from rfl).trans ?_
  simp only [BitVec.getLsbD_append, BitVec.getLsbD_extractLsb']
  interval_cases k <;> simp

theorem Fields.imm21J_getElem (w : Word) {k : Nat} (hk : k < 21) :
    (Fields.imm21J w)[k] =
      (decide (0 < k) && w.getLsbD (if k < 11 then 20 + k else if k = 11 then 20 else if k < 20 then k else 31)) := by
  rw [← BitVec.getLsbD_eq_getElem]
  refine (show _ = (w.extractLsb' 31 1 ++ w.extractLsb' 12 8 ++ w.extractLsb' 20 1 ++ w.extractLsb' 21 10 ++ 0#1 :
    BitVec (1 + 8 + 1 + 10 + 1)).getLsbD k from rfl).trans ?_
  simp only [BitVec.getLsbD_append, BitVec.getLsbD_extractLsb']
  interval_cases k <;> simp

theorem Fields.shiftHi_getElem (w : Word) {k : Nat} (hk : k < 6) :
    (Fields.shiftHi w)[k] = w.getLsbD (if k < 5 then 25 + k else 31) := by
  rw [← BitVec.getLsbD_eq_getElem]
  refine (BitVec.getLsbD_append (x := w.extractLsb' 31 1) (y := w.extractLsb' 25 5)).trans ?_
  simp only [BitVec.getLsbD_extractLsb']
  interval_cases k <;> simp

/-- R105, R107: bit 0 of a branch or jump offset is always 0. -/
theorem Fields.imm13B_even (w : Word) : (Fields.imm13B w).extractLsb' 0 1 = 0#1 := by
  refine BitVec.eq_of_getLsbD_eq fun k hk => ?_
  obtain rfl : k = 0 := by omega
  simp [Fields.imm13B_getElem]

theorem Fields.imm21J_even (w : Word) : (Fields.imm21J w).extractLsb' 0 1 = 0#1 := by
  refine BitVec.eq_of_getLsbD_eq fun k hk => ?_
  obtain rfl : k = 0 := by omega
  simp [Fields.imm21J_getElem]

/-! ### Reading back an offset whose bit 0 is clear -/

theorem Format.b_imm13B {off : BitVec 13} (h : off.extractLsb' 0 1 = 0#1) (rs2 rs1 : RegIx) (f3 : BitVec 3) (op : BitVec 7) :
    Fields.imm13B (Format.b off rs2 rs1 f3 op) = off := by
  have h0 : off[0] = false := by simpa using congrArg (·.getLsbD 0) h
  refine BitVec.eq_of_getLsbD_eq fun k hk => ?_
  rw [BitVec.getLsbD_eq_getElem hk, Fields.imm13B_getElem]
  simp only [Format.b_bit, BitVec.getLsbD_append, BitVec.getLsbD_extractLsb']
  interval_cases k <;> simp [h0]

theorem Format.j_imm21J {off : BitVec 21} (h : off.extractLsb' 0 1 = 0#1) (rd : RegIx) (op : BitVec 7) :
    Fields.imm21J (Format.j off rd op) = off := by
  have h0 : off[0] = false := by simpa using congrArg (·.getLsbD 0) h
  refine BitVec.eq_of_getLsbD_eq fun k hk => ?_
  rw [BitVec.getLsbD_eq_getElem hk, Fields.imm21J_getElem]
  simp only [Format.j_bit, BitVec.getLsbD_append, BitVec.getLsbD_extractLsb']
  interval_cases k <;> simp [h0]

/-! ### A word is its format of its fields (R102) -/

section
variable {w : Word} {op : BitVec 7} {f3 : BitVec 3}

open Fields

theorem Format.r_of_fields {f7 : BitVec 7} (h7 : funct7 w = f7) (h3 : funct3 w = f3) (hop : opcode w = op) :
    Format.r f7 (rs2 w) (rs1 w) f3 (rd w) op = w := by
  subst h7 h3 hop
  refine BitVec.eq_of_getLsbD_eq fun k hk => ?_
  simp only [Format.r_bit, BitVec.getLsbD_append, funct7, rs2, rs1, funct3, rd, opcode, BitVec.getLsbD_extractLsb']
  interval_cases k <;> simp

theorem Format.i_of_fields (h3 : funct3 w = f3) (hop : opcode w = op) :
    Format.i (imm12I w) (rs1 w) f3 (rd w) op = w := by
  subst h3 hop
  refine BitVec.eq_of_getLsbD_eq fun k hk => ?_
  simp only [Format.i_bit, BitVec.getLsbD_append, imm12I, rs1, funct3, rd, opcode, BitVec.getLsbD_extractLsb']
  interval_cases k <;> simp

theorem Format.s_of_fields (h3 : funct3 w = f3) (hop : opcode w = op) :
    Format.s (imm12S w) (rs2 w) (rs1 w) f3 op = w := by
  subst h3 hop
  refine BitVec.eq_of_getLsbD_eq fun k hk => ?_
  simp only [Format.s_bit, BitVec.getLsbD_append, rs2, rs1, funct3, opcode, BitVec.getLsbD_extractLsb']
  interval_cases k <;> simp [imm12S_getElem]

theorem Format.b_of_fields (h3 : funct3 w = f3) (hop : opcode w = op) :
    Format.b (imm13B w) (rs2 w) (rs1 w) f3 op = w := by
  subst h3 hop
  refine BitVec.eq_of_getLsbD_eq fun k hk => ?_
  simp only [Format.b_bit, BitVec.getLsbD_append, rs2, rs1, funct3, opcode, BitVec.getLsbD_extractLsb']
  interval_cases k <;> simp [imm13B_getElem]

theorem Format.u_of_fields (hop : opcode w = op) : Format.u (imm20U w) (rd w) op = w := by
  subst hop
  refine BitVec.eq_of_getLsbD_eq fun k hk => ?_
  simp only [Format.u_bit, BitVec.getLsbD_append, imm20U, rd, opcode, BitVec.getLsbD_extractLsb']
  interval_cases k <;> simp

theorem Format.j_of_fields (hop : opcode w = op) : Format.j (imm21J w) (rd w) op = w := by
  subst hop
  refine BitVec.eq_of_getLsbD_eq fun k hk => ?_
  simp only [Format.j_bit, BitVec.getLsbD_append, rd, opcode, BitVec.getLsbD_extractLsb']
  interval_cases k <;> simp [imm21J_getElem]

theorem Format.shift_of_fields {arith : BitVec 1} (h30 : bit30 w = arith) (h3 : funct3 w = f3) (hop : opcode w = op) :
    Format.shift arith (shiftHi w) (rs2 w) (rs1 w) f3 (rd w) op = w := by
  subst h30 h3 hop
  refine BitVec.eq_of_getLsbD_eq fun k hk => ?_
  simp only [Format.shift_bit, BitVec.getLsbD_append, bit30, rs2, rs1, funct3, rd, opcode, BitVec.getLsbD_extractLsb']
  interval_cases k <;> simp [shiftHi_getElem]

end

end Sys2Proof
end

section
/-! The immediates as 32-bit values (O5): their bits and ranges. -/

namespace Sys2Proof.Machine

/-! ### Bits -/

/-- A sign-extended word repeats its top bit. -/
theorem signExtend_getLsbD {n m k : Nat} (x : BitVec (n + 1)) (hk : k < m) :
    (x.signExtend m).getLsbD k = x[min k n] := by
  rw [BitVec.getLsbD_signExtend, BitVec.msb_eq_getLsbD_last]
  rcases Nat.lt_or_ge k (n + 1) with h | h
  · simp [hk, h, Nat.min_eq_left (Nat.le_of_lt_succ h)]
  · simp [hk, Nat.not_lt.mpr h, Nat.min_eq_right (Nat.le_of_succ_le h)]

theorem immU_getLsbD (imm : BitVec 20) (k : Nat) :
    (immU imm).getLsbD k = (decide (12 ≤ k) && imm.getLsbD (k - 12)) := by
  refine (BitVec.getLsbD_append (x := imm) (y := 0#12)).trans ?_
  split
  · simp [*]
  · simp [Nat.not_lt.mp ‹_›]

/-! ### Ranges -/

/-- Sign extension keeps the value, and so the range of the narrower width. -/
theorem signExtend_toInt_bounds {n m : Nat} (x : BitVec (n + 1)) (h : n + 1 ≤ m) :
    -2 ^ n ≤ (x.signExtend m).toInt ∧ (x.signExtend m).toInt < 2 ^ n := by
  rw [BitVec.toInt_signExtend_of_le h]
  exact ⟨BitVec.le_toInt x, BitVec.toInt_lt⟩

/-- A value whose bit 0 is clear is even. -/
theorem toInt_even {n : Nat} {x : BitVec (n + 1)} (h : x.extractLsb' 0 1 = 0#1) : x.toInt % 2 = 0 := by
  have h0 : x.toNat % 2 = 0 := by simpa [BitVec.extractLsb'_toNat] using congrArg BitVec.toNat h
  rw [BitVec.toInt_eq_toNat_cond, pow_succ]
  split
  · omega
  · push_cast
    omega

/-- The range of an offset whose bit 0 is clear ends one lower. -/
theorem signExtend_toInt_even_bounds {n m : Nat} {x : BitVec (n + 2)} (h : n + 2 ≤ m) (h0 : x.extractLsb' 0 1 = 0#1) :
    -2 ^ (n + 1) ≤ (x.signExtend m).toInt ∧ (x.signExtend m).toInt ≤ 2 ^ (n + 1) - 2 := by
  obtain ⟨hlo, hhi⟩ := signExtend_toInt_bounds x h
  have heven : (x.signExtend m).toInt % 2 = 0 := (congrArg (· % 2) (BitVec.toInt_signExtend_of_le h)).trans (toInt_even h0)
  rw [pow_succ] at hlo hhi ⊢
  omega

/-- Settles O5, from the bits of the raw immediates and what sign extension does to bits and values. -/
theorem immediatesBitByBit : Obligations.ImmediatesBitByBit := by
  intro w
  refine ⟨fun k hk => ⟨?_, ?_, ?_, ?_, ?_⟩, ?_, ?_, signExtend_toInt_even_bounds (by decide) (Fields.imm13B_even w),
    signExtend_toInt_even_bounds (by decide) (Fields.imm21J_even w)⟩
  · rw [sext12, signExtend_getLsbD _ hk, Fields.imm12I_getElem]
    interval_cases k <;> rfl
  · rw [sext12, signExtend_getLsbD _ hk, Fields.imm12S_getElem]
    interval_cases k <;> rfl
  · rw [immB, signExtend_getLsbD _ hk, Fields.imm13B_getElem]
    interval_cases k <;> rfl
  · rw [immU_getLsbD]
    by_cases h : 12 ≤ k
    · simp [h, Fields.imm20U, hk, show k - 12 < 20 by omega]
    · simp [h]
  · rw [immJ, signExtend_getLsbD _ hk, Fields.imm21J_getElem]
    interval_cases k <;> rfl
  · exact (signExtend_toInt_bounds (Fields.imm12I w) (by decide)).imp_right Int.le_of_lt_add_one
  · exact (signExtend_toInt_bounds (Fields.imm12S w) (by decide)).imp_right Int.le_of_lt_add_one

end Sys2Proof.Machine
end

section
/-! The decoder (O1 to O4): what it reads from a word encodes to the word, the row of the opcode table that takes the word is
the row of what it reads, and it reads back what was encoded. -/

namespace Sys2Proof

open Fields

/-! ### What the decoder reads from a word -/

/-- `i` encodes to `w`, and is well formed unless it is the unknown word `w`. -/
structure Instr.ReadFrom (c : FpCodes) (w : Word) (i : Instr) : Prop where
  encode : encode c i = w
  wf : i = .unknown w ∨ i.wf c = true

section
variable {c : FpCodes} {w : Word}

theorem Instr.ReadFrom.unknown : (Instr.unknown w).ReadFrom c w := ⟨rfl, .inl rfl⟩

theorem Instr.ReadFrom.ite {p : Prop} [Decidable p] {i j : Instr} (hi : p → i.ReadFrom c w) (hj : ¬p → j.ReadFrom c w) :
    (if p then i else j).ReadFrom c w := by
  split
  · exact hi ‹_›
  · exact hj ‹_›

/-- The last of the eight codes of funct3 is the one left. -/
theorem funct3_eq_seven {f3 : BitVec 3} (h0 : f3 ≠ 0#3) (h1 : f3 ≠ 1#3) (h2 : f3 ≠ 2#3) (h3 : f3 ≠ 3#3) (h4 : f3 ≠ 4#3)
    (h5 : f3 ≠ 5#3) (h6 : f3 ≠ 6#3) : f3 = 7#3 := by bv_omega

theorem decodeBranch_readFrom (hop : opcode w = 0x63#7) : (decodeBranch w).ReadFrom c w := by
  unfold decodeBranch
  iterate 6 refine .ite (fun h => ⟨Format.b_of_fields h hop, .inr (by simp [Instr.wf, imm13B_even])⟩) fun _ => ?_
  exact .unknown

theorem decodeLoad_readFrom (hop : opcode w = 0x03#7) : (decodeLoad w).ReadFrom c w := by
  unfold decodeLoad
  iterate 5 refine .ite (fun h => ⟨Format.i_of_fields h hop, .inr rfl⟩) fun _ => ?_
  exact .unknown

theorem decodeStore_readFrom (hop : opcode w = 0x23#7) : (decodeStore w).ReadFrom c w := by
  unfold decodeStore
  iterate 3 refine .ite (fun h => ⟨Format.s_of_fields h hop, .inr rfl⟩) fun _ => ?_
  exact .unknown

theorem decodeOpImm_readFrom (hop : opcode w = 0x13#7) : (decodeOpImm w).ReadFrom c w := by
  unfold decodeOpImm
  refine .ite (fun h => ⟨Format.i_of_fields h hop, .inr rfl⟩) fun h0 => ?_
  refine .ite (fun h => ⟨Format.r_of_fields rfl h hop, .inr rfl⟩) fun h1 => ?_
  refine .ite (fun h => ⟨Format.i_of_fields h hop, .inr rfl⟩) fun h2 => ?_
  refine .ite (fun h => ⟨Format.i_of_fields h hop, .inr rfl⟩) fun h3 => ?_
  refine .ite (fun h => ⟨Format.i_of_fields h hop, .inr rfl⟩) fun h4 => ?_
  refine .ite (fun h => .ite (fun h30 => ⟨Format.shift_of_fields h30 h hop, .inr rfl⟩) fun h30 =>
    ⟨Format.shift_of_fields ((BitVec.eq_zero_or_eq_one _).resolve_left h30) h hop, .inr rfl⟩) fun h5 => ?_
  refine .ite (fun h => ⟨Format.i_of_fields h hop, .inr rfl⟩) fun h6 => ?_
  exact ⟨Format.i_of_fields (funct3_eq_seven h0 h1 h2 h3 h4 h5 h6) hop, .inr rfl⟩

theorem decodeOpBase_readFrom (h7 : funct7 w = 0x00#7) (hop : opcode w = 0x33#7) : (decodeOpBase w).ReadFrom c w := by
  unfold decodeOpBase
  iterate 7 refine .ite (fun h => ⟨Format.r_of_fields h7 h hop, .inr rfl⟩) fun _ => ?_
  exact ⟨Format.r_of_fields h7 (funct3_eq_seven ‹_› ‹_› ‹_› ‹_› ‹_› ‹_› ‹_›) hop, .inr rfl⟩

theorem decodeOp_readFrom (hop : opcode w = 0x33#7) : (decodeOp c w).ReadFrom c w := by
  unfold decodeOp
  iterate 12 refine .ite (fun h7 => ⟨Format.r_of_fields h7 rfl hop, .inr rfl⟩) fun _ => ?_
  refine .ite (fun h7 => decodeOpBase_readFrom h7 hop) fun _ => .ite (fun h7 => ?_) fun _ => .unknown
  iterate 2 refine .ite (fun h => ⟨Format.r_of_fields h7 h hop, .inr rfl⟩) fun _ => ?_
  exact .unknown

theorem decodeMiscMem_readFrom (hop : opcode w = 0x0F#7) : (decodeMiscMem w).ReadFrom c w := by
  unfold decodeMiscMem
  iterate 2 refine .ite (fun h => ⟨Format.i_of_fields h hop, .inr rfl⟩) fun _ => ?_
  exact .unknown

theorem decodeSystem_readFrom (hop : opcode w = 0x73#7) : (decodeSystem w).ReadFrom c w := by
  unfold decodeSystem
  iterate 2 refine .ite (fun h => ⟨h.symm, .inr rfl⟩) fun _ => ?_
  iterate 6 refine .ite (fun h => ⟨Format.i_of_fields h hop, .inr rfl⟩) fun _ => ?_
  exact .unknown

variable (c w) in
theorem decodeWord_readFrom : (decodeWord c w).ReadFrom c w := by
  unfold decodeWord
  iterate 2 refine .ite (fun hop => ⟨Format.u_of_fields hop, .inr rfl⟩) fun _ => ?_
  refine .ite (fun hop => ⟨Format.j_of_fields hop, .inr (by simp [Instr.wf, imm21J_even])⟩) fun _ => ?_
  refine .ite (fun hop => .ite (fun h => ⟨Format.i_of_fields h hop, .inr rfl⟩) fun _ => .unknown) fun _ => ?_
  exact .ite decodeBranch_readFrom fun _ => .ite decodeLoad_readFrom fun _ => .ite decodeStore_readFrom fun _ =>
    .ite decodeOpImm_readFrom fun _ => .ite decodeOp_readFrom fun _ => .ite decodeMiscMem_readFrom fun _ =>
    .ite decodeSystem_readFrom fun _ => .unknown

end

/-! ### The floating-point codes (R113) -/

/-- The floating-point forms in the order the decoder tries them. -/
def FpCodes.forms (c : FpCodes) : List (BitVec 7 × (RegIx → RegIx → RegIx → BitVec 3 → Instr)) :=
  [(c.fadd, .fadd), (c.fsub, .fsub), (c.fmul, .fmul), (c.fdiv, .fdiv), (c.fsqrt, .fsqrt), (c.fmin, .fmin),
   (c.fmax, .fmax), (c.feq, .feq), (c.flt, .flt), (c.fle, .fle), (c.fcvtWS, .fcvtWS), (c.fcvtSW, .fcvtSW)]

/-- OP once no floating-point code is the word's funct7 (R112). -/
def decodeOpInteger (w : Word) : Instr :=
  if funct7 w = 0x00#7 then decodeOpBase w
  else if funct7 w = 0x20#7 then
    if funct3 w = 0#3 then .sub (rd w) (rs1 w) (rs2 w)
    else if funct3 w = 5#3 then .sra (rd w) (rs1 w) (rs2 w)
    else .unknown w
  else .unknown w

theorem decodeOp_eq_foldr (c : FpCodes) (w : Word) :
    decodeOp c w = c.forms.foldr
      (fun p rest => if funct7 w = p.1 then p.2 (rd w) (rs1 w) (rs2 w) (funct3 w) else rest) (decodeOpInteger w) := rfl

section
variable {α β γ : Type} [DecidableEq α] {f : β → γ} {d : γ} {l : List (α × β)} {k : α}

/-- Of cases with distinct keys, the one with the key sought is taken. -/
theorem foldr_ite_of_mem (hl : (l.map Prod.fst).Nodup) {v : β} (h : (k, v) ∈ l) :
    l.foldr (fun p rest => if k = p.1 then f p.2 else rest) d = f v := by
  induction l with
  | nil => cases h
  | cons p l ih =>
    rw [List.map_cons, List.nodup_cons] at hl
    rcases List.mem_cons.mp h with rfl | h
    · exact if_pos rfl
    · have hne : k ≠ p.1 := fun he => hl.1 (he ▸ List.mem_map_of_mem (f := Prod.fst) h)
      exact (if_neg hne).trans (ih hl.2 h)

theorem foldr_ite_of_not_mem (h : k ∉ l.map Prod.fst) :
    l.foldr (fun p rest => if k = p.1 then f p.2 else rest) d = d := by
  induction l with
  | nil => rfl
  | cons p l ih =>
    rw [List.map_cons, List.mem_cons, not_or] at h
    exact (if_neg h.1).trans (ih h.2)

end

section
variable {c : FpCodes} {w : Word}

/-- R113: the codes of a legal map are distinct, and none is a funct7 of the integer members. -/
theorem FpCodes.ok_iff : c.ok = true ↔ (c.forms.map Prod.fst).Nodup ∧ ∀ x ∈ c.forms.map Prod.fst, x ≠ 0x00#7 ∧ x ≠ 0x20#7 := by
  rw [show c.forms.map Prod.fst = c.list from rfl]
  simp [ok]

theorem decodeOp_form (hc : c.ok = true) {p : BitVec 7 × (RegIx → RegIx → RegIx → BitVec 3 → Instr)} (hp : p ∈ c.forms)
    (h7 : funct7 w = p.1) : decodeOp c w = p.2 (rd w) (rs1 w) (rs2 w) (funct3 w) := by
  rw [decodeOp_eq_foldr, h7]
  exact foldr_ite_of_mem (f := fun form => form (rd w) (rs1 w) (rs2 w) (funct3 w)) (FpCodes.ok_iff.mp hc).1 hp

theorem decodeOp_integer (hc : c.ok = true) (h7 : funct7 w = 0x00#7 ∨ funct7 w = 0x20#7) :
    decodeOp c w = decodeOpInteger w := by
  have hcodes := (FpCodes.ok_iff.mp hc).2
  rw [decodeOp_eq_foldr]
  refine foldr_ite_of_not_mem
    (f := fun form : RegIx → RegIx → RegIx → BitVec 3 → Instr => form (rd w) (rs1 w) (rs2 w) (funct3 w)) fun hmem => ?_
  exact h7.elim (hcodes _ hmem).1 (hcodes _ hmem).2

/-- R117: the words of ECALL and EBREAK have funct3 = 0. -/
theorem ne_ecall_of_funct3 (h : funct3 w ≠ 0#3) : w ≠ 0x00000073#32 := fun hw => h (hw ▸ rfl)

theorem ne_ebreak_of_funct3 (h : funct3 w ≠ 0#3) : w ≠ 0x00100073#32 := fun hw => h (hw ▸ rfl)

theorem decodeWord_op (hop : opcode w = 0x33#7) : decodeWord c w = decodeOp c w := by simp [decodeWord, hop]

/-- A floating-point word is read back, whatever its ignored bits hold (R112). -/
theorem decodeWord_float (hc : c.ok = true) : ∀ p ∈ c.forms, ∀ rd rs1 rs2 f3,
    decodeWord c (Format.r p.1 rs2 rs1 f3 rd 0x33#7) = p.2 rd rs1 rs2 f3 := by
  intro p hp rd rs1 rs2 f3
  rw [decodeWord_op (Format.r_opcode ..), decodeOp_form hc hp (Format.r_funct7 ..)]
  simp

/-! ### The rows of the opcode table (R122) -/

/-- Where the mask of a row is all ones, a word it takes has the field of the row's value. -/
theorem OpcodeRow.field_of_takes {r : OpcodeRow} (h : r.takes w = true) (start len : Nat)
    (hm : r.mask.extractLsb' start len = BitVec.allOnes len) :
    w.extractLsb' start len = r.value.extractLsb' start len := by
  have hv : w &&& r.mask = r.value := by simpa [takes] using h
  rw [← hv, BitVec.extractLsb'_and, hm, BitVec.and_allOnes]

theorem immediateRows_mnemonic {r : OpcodeRow} (hr : r ∈ immediateRows) (h : r.takes w = true) :
    (decodeWord c w).mnemonic = r.mnemonic := by
  unfold immediateRows at hr
  fin_cases hr
  -- LUI, AUIPC, JAL: by the opcode
  iterate 3
    have hop := OpcodeRow.field_of_takes h 0 7 rfl
    simp [decodeWord, opcode, hop, Instr.mnemonic]
  -- JALR to SLLI: by the opcode and funct3
  iterate 22
    have hop := OpcodeRow.field_of_takes h 0 7 rfl
    have h3 := OpcodeRow.field_of_takes h 12 3 rfl
    simp [decodeWord, decodeBranch, decodeLoad, decodeStore, decodeOpImm, opcode, funct3, hop, h3, Instr.mnemonic]
  -- SRLI, SRAI: by bit 30 too
  iterate 2
    have hop := OpcodeRow.field_of_takes h 0 7 rfl
    have h3 := OpcodeRow.field_of_takes h 12 3 rfl
    have h30 := OpcodeRow.field_of_takes h 30 1 rfl
    simp [decodeWord, decodeOpImm, opcode, funct3, bit30, hop, h3, h30, Instr.mnemonic]

theorem registerRows_mnemonic (hc : c.ok = true) {r : OpcodeRow} (hr : r ∈ registerRows) (h : r.takes w = true) :
    (decodeWord c w).mnemonic = r.mnemonic := by
  unfold registerRows at hr
  fin_cases hr
  all_goals
    have hop := OpcodeRow.field_of_takes h 0 7 rfl
    have h3 := OpcodeRow.field_of_takes h 12 3 rfl
    have h7 := OpcodeRow.field_of_takes h 25 7 rfl
    rw [decodeWord_op hop, decodeOp_integer hc (by simp [funct7, h7])]
    simp [decodeOpInteger, decodeOpBase, funct3, funct7, h3, h7, Instr.mnemonic]

theorem floatRows_eq_map (c : FpCodes) :
    floatRows c = c.forms.map fun p => floatRow (p.2 0#5 0#5 0#5 0#3).mnemonic p.1 := rfl

theorem FpCodes.forms_mnemonic {p : BitVec 7 × (RegIx → RegIx → RegIx → BitVec 3 → Instr)} (hp : p ∈ c.forms)
    (rd rs1 rs2 : RegIx) (f3 : BitVec 3) : (p.2 rd rs1 rs2 f3).mnemonic = (p.2 0#5 0#5 0#5 0#3).mnemonic := by
  unfold forms at hp
  fin_cases hp <;> rfl

theorem floatRows_mnemonic (hc : c.ok = true) {r : OpcodeRow} (hr : r ∈ floatRows c) (h : r.takes w = true) :
    (decodeWord c w).mnemonic = r.mnemonic := by
  rw [floatRows_eq_map] at hr
  obtain ⟨p, hp, rfl⟩ := List.mem_map.mp hr
  unfold floatRow at h ⊢
  have hv : (p.1 ++ 0#18 ++ 0x33#7 : Word) = Format.r p.1 0#5 0#5 0#3 0#5 0x33#7 :=
    (Format.r_float p.1 0#3 0#5 0#5 0#5).symm.trans (Format.r_floatMask _ _ _ _ _ _)
  have hop := OpcodeRow.field_of_takes h 0 7 (show (0xFE00007F#32).extractLsb' 0 7 = _ from rfl)
  have h7 := OpcodeRow.field_of_takes h 25 7 (show (0xFE00007F#32).extractLsb' 25 7 = _ from rfl)
  simp only [hv] at hop h7
  rw [decodeWord_op (hop.trans (Format.r_opcode ..)), decodeOp_form hc hp (h7.trans (Format.r_funct7 ..)),
    FpCodes.forms_mnemonic hp]

theorem systemRows_mnemonic {r : OpcodeRow} (hr : r ∈ systemRows) (h : r.takes w = true) :
    (decodeWord c w).mnemonic = r.mnemonic := by
  unfold systemRows at hr
  fin_cases hr
  -- FENCE, FENCE.I
  iterate 2
    have hop := OpcodeRow.field_of_takes h 0 7 rfl
    have h3 := OpcodeRow.field_of_takes h 12 3 rfl
    simp [decodeWord, decodeMiscMem, opcode, funct3, hop, h3, Instr.mnemonic]
  -- ECALL, EBREAK: by all 32 bits
  iterate 2
    have hw := OpcodeRow.field_of_takes h 0 32 rfl
    rw [BitVec.extractLsb'_eq_self] at hw
    rw [hw]
    rfl
  -- the CSR forms
  iterate 6
    have hop := OpcodeRow.field_of_takes h 0 7 rfl
    have h3 := OpcodeRow.field_of_takes h 12 3 rfl
    simp [decodeWord, decodeSystem, ne_ecall_of_funct3, ne_ebreak_of_funct3, opcode, funct3, hop, h3, Instr.mnemonic]

/-- R122: the decoder answers an instruction of the row that takes the word. -/
theorem decodeWord_mnemonic_of_takes (hc : c.ok = true) {r : OpcodeRow} (hr : r ∈ opcodeRows c) (h : r.takes w = true) :
    (decodeWord c w).mnemonic = r.mnemonic := by
  simp only [opcodeRows, List.mem_append] at hr
  obtain ((hr | hr) | hr) | hr := hr
  · exact immediateRows_mnemonic hr h
  · exact registerRows_mnemonic hc hr h
  · exact floatRows_mnemonic hc hr h
  · exact systemRows_mnemonic hr h

theorem opcodeRows_mnemonics (c : FpCodes) :
    (opcodeRows c).map OpcodeRow.mnemonic = (opcodeRows FpCodes.default).map OpcodeRow.mnemonic := by
  simp [opcodeRows, floatRows, floatRow]

/-- The mnemonics of the table are distinct, the catch-all's among them. -/
theorem opcodeRows_mnemonics_nodup (c : FpCodes) :
    ("NOP.UNKNOWN" :: (opcodeRows c).map OpcodeRow.mnemonic).Nodup := by
  rw [opcodeRows_mnemonics]
  decide

theorem Instr.eq_unknown_of_mnemonic {i : Instr} (h : i.mnemonic = "NOP.UNKNOWN") : ∃ v, i = .unknown v := by
  cases i
  case unknown v => exact ⟨v, rfl⟩
  all_goals simp [mnemonic] at h

/-- R122: the encoded word of an instruction is one of its row. -/
theorem Laws.EncodedRow.statement (i : Instr) : Laws.EncodedRow.Statement i := by
  cases i <;> simp only [lui, auipc, jal, jalr, beq, bne, blt, bge, bltu, bgeu, lb, lh, lw, lbu, lhu, sb, sh, sw, addi, slti,
    sltiu, xori, ori, andi, slli, srli, srai, add, sub, sll, slt, sltu, xor, srl, sra, or, and, fadd, fsub, fmul, fdiv, fsqrt,
    fmin, fmax, feq, flt, fle, fcvtWS, fcvtSW, fence, fenceI, ecall, ebreak, csrrw, csrrs, csrrc, csrrwi, csrrsi, csrrci,
    unknown]

theorem knownWord_iff : knownWord c w = true ↔ ∃ r ∈ opcodeRows c, r.takes w = true := List.any_eq_true

theorem Instr.ReadFrom.eq_unknown {i : Instr} (hi : i.ReadFrom c w) (hm : i.mnemonic = "NOP.UNKNOWN") : i = .unknown w := by
  obtain ⟨v, rfl⟩ := Instr.eq_unknown_of_mnemonic hm
  exact congrArg Instr.unknown hi.encode

/-- R118: a word that no row takes is NOP.UNKNOWN. -/
theorem decodeWord_of_not_known (h : knownWord c w = false) : decodeWord c w = .unknown w := by
  have hread := decodeWord_readFrom c w
  by_cases hm : (decodeWord c w).mnemonic = "NOP.UNKNOWN"
  · exact hread.eq_unknown hm
  · refine hread.wf.resolve_right fun hwf => ?_
    have hrow := Laws.EncodedRow.statement _ c hwf
    rw [if_neg hm, hread.encode] at hrow
    obtain ⟨r, hr, -, htakes⟩ := hrow
    exact Bool.false_ne_true (h.symm.trans (knownWord_iff.mpr ⟨r, hr, htakes⟩))

/-- What the decoder answers is well formed: a word it does not know is taken by no row. -/
theorem decodeWord_wf (hc : c.ok = true) : (decodeWord c w).wf c = true := by
  rcases (decodeWord_readFrom c w).wf with hunknown | hwf
  · have hnot : knownWord c w ≠ true := fun hknown => by
      obtain ⟨r, hr, htakes⟩ := knownWord_iff.mp hknown
      have hmnemonic := decodeWord_mnemonic_of_takes hc hr htakes
      rw [hunknown] at hmnemonic
      exact (List.nodup_cons.mp (opcodeRows_mnemonics_nodup c)).1 (List.mem_map.mpr ⟨r, hr, hmnemonic.symm⟩)
    rw [hunknown]
    simpa [Instr.wf] using hnot
  · exact hwf

end

/-! ### The statements -/

/-- Settles O1, by running the decoder on each word. -/
theorem specExampleWordsDecode : Obligations.SpecExampleWordsDecode :=
  ⟨rfl, rfl, rfl, rfl, rfl, rfl, rfl, rfl, rfl, rfl, rfl⟩

/-- Settles O3: what the decoder reads from a word is made of the word's own fields. -/
theorem encodeOfDecodeIsIdentity : Obligations.EncodeOfDecodeIsIdentity := fun c w => (decodeWord_readFrom c w).encode

/-- Settles O4: the decoder answers one mnemonic for a word, and the mnemonics of the rows are distinct. -/
theorem decoderFollowsTheOpcodeTable : Obligations.DecoderFollowsTheOpcodeTable := by
  intro c hc
  refine ⟨?_, fun w => ⟨fun r hr => decodeWord_mnemonic_of_takes hc hr, decodeWord_of_not_known, decodeWord_wf hc⟩⟩
  have hnodup := (List.nodup_cons.mp (opcodeRows_mnemonics_nodup c)).2
  refine (List.pairwise_map.mp hnodup).imp_of_mem fun {r q} hr hq hne w htakes => hne ?_
  exact (decodeWord_mnemonic_of_takes hc hr htakes.1).symm.trans (decodeWord_mnemonic_of_takes hc hq htakes.2)

/-- Settles O2, by family: the decoder finds in the encoded word the fields that select the instruction, and its operands. -/
theorem decodeOfEncodeIsIdentity : Obligations.DecodeOfEncodeIsIdentity := by
  intro c hc i hwf
  cases i
  case unknown w => exact decodeWord_of_not_known (w := w) (by simpa [Instr.wf] using hwf)
  case jal =>
    simp only [Instr.wf, beq_iff_eq] at hwf
    simp [encode, decodeWord, Format.j_imm21J hwf]
  case beq | bne | blt | bge | bltu | bgeu =>
    simp only [Instr.wf, beq_iff_eq] at hwf
    simp [encode, decodeWord, decodeBranch, Format.b_imm13B hwf]
  case fadd | fsub | fmul | fdiv | fsqrt | fmin | fmax | feq | flt | fle | fcvtWS | fcvtSW =>
    have hfloat := decodeWord_float hc
    simp only [FpCodes.forms, List.forall_mem_cons] at hfloat
    simp [encode, hfloat]
  case add | sub | sll | slt | sltu | xor | srl | sra | or | and =>
    simp [encode, decodeWord_op, decodeOp_integer hc, decodeOpInteger, decodeOpBase]
  case ecall | ebreak => simp [encode, decodeWord, decodeSystem, opcode]
  case csrrw | csrrs | csrrc | csrrwi | csrrsi | csrrci =>
    simp [encode, decodeWord, decodeSystem, ne_ecall_of_funct3, ne_ebreak_of_funct3]
  all_goals simp [encode, decodeWord, decodeLoad, decodeStore, decodeOpImm, decodeMiscMem]

end Sys2Proof
end

section
/-! The instructions with an immediate (O9) and those with no effect (O26): the form of an instruction gives its next state. -/

namespace Sys2Proof.Machine

/-! ### The forms (R142, R190) -/

section
variable {s : State} {rd rs1 : RegIx}

theorem State.execute_upper {f : Word → Word} : s.execute (upperForm rd f) = .next (s.completes rd (f s.ia)) := rfl

theorem State.execute_unary {f : Config → Word → Word} :
    s.execute (unaryForm rd rs1 f) = .next (s.completes rd (f s.cfg (s.reg rs1))) := rfl

theorem State.execute_noEffect : s.execute noEffectForm = .next (s.setNext (s.ia + 4#32) false) :=
  congrArg (fun t : State => Host.Outcome.next (t.setNext (s.ia + 4#32) false)) s.withVm_self

end

/-! ### The values, as the rules write them -/

theorem immU_eq_shiftLeft (imm : BitVec 20) : immU imm = imm.setWidth 32 <<< 12 := by
  refine BitVec.eq_of_getLsbD_eq fun k hk => ?_
  rw [immU_getLsbD, BitVec.getLsbD_shiftLeft, BitVec.getLsbD_setWidth]
  by_cases h : 12 ≤ k
  · simp [h, hk, show k - 12 < 32 by omega]
  · simp [h]

theorem toInt_sext12 (imm : BitVec 12) : (sext12 imm).toInt = imm.toInt := BitVec.toInt_signExtend_of_le (by decide)

theorem boolWord_decide (p : Prop) [Decidable p] : boolWord (decide p) = if p then 1#32 else 0#32 := by simp [boolWord]

theorem shiftLeft_eq_ofNat (a : Word) (n : Nat) : a <<< n = BitVec.ofNat 32 (a.toNat * 2 ^ n) :=
  BitVec.eq_of_toNat_eq (by simp [Nat.shiftLeft_eq])

theorem ushiftRight_eq_ofNat (a : Word) (n : Nat) : a >>> n = BitVec.ofNat 32 (a.toNat / 2 ^ n) := by
  rw [← Nat.shiftRight_eq_div_pow, ← BitVec.toNat_ushiftRight, BitVec.ofNat_toNat, BitVec.setWidth_eq]

theorem sshiftRight_eq_ofInt (a : Word) (n : Nat) : a.sshiftRight n = BitVec.ofInt 32 (a.toInt / 2 ^ n) := by
  rw [BitVec.sshiftRight, Int.shiftRight_eq_div_pow, Nat.cast_pow, Nat.cast_ofNat]

/-! ### The results -/

/-- Settles O9: LUI and AUIPC are of the upper form, OP_IMM of the form with one source. -/
theorem immediateResults : Obligations.ImmediateResults := by
  intro s rd rs1 imm imm20 shamt hi7 hi6
  simp only [exec_eq_execute, ← immU_eq_shiftLeft, ← toInt_sext12, ← boolWord_decide, ← shiftLeft_eq_ofNat,
    ← ushiftRight_eq_ofNat, ← sshiftRight_eq_ofInt]
  exact ⟨State.execute_upper, State.execute_upper, State.execute_unary, State.execute_unary, State.execute_unary,
    State.execute_unary, State.execute_unary, State.execute_unary, State.execute_unary, State.execute_unary,
    State.execute_unary⟩

/-- Settles O26: each of these instructions is of the form with no effect. -/
theorem noEffectInstructions : Obligations.NoEffectInstructions := by
  intro s rd rs1 imm w i hi
  have hform : meaningOf i = noEffectForm := by fin_cases hi <;> rfl
  rw [exec_eq_execute, hform, State.execute_noEffect]

end Sys2Proof.Machine
end

section
/-! The integer OP instructions (O10): each is of the form with two sources, whose one write and next-address are those of
`completes`. -/

namespace Sys2Proof.Machine

/-! ### The form and the shift amount -/

/-- R142: a unit alone reads both sources, in whichever order, and writes rd. -/
theorem State.execute_binary {s : State} {rd rs1 rs2 : RegIx} {f : Config → Word → Word → Word} :
    s.execute (binaryForm rd rs1 rs2 f) = .next (s.completes rd (f s.cfg (s.reg rs1) (s.reg rs2))) := by
  rw [execute, binaryForm, readBoth_run]
  rfl

theorem toNat_shamtOf (v : Word) : (shamtOf v).toNat = v.toNat % 32 := by
  rw [shamtOf, BitVec.extractLsb'_toNat, Nat.shiftRight_zero]

/-! ### The results -/

/-- Settles O10: the ten instructions are of the form with two sources, and a register shift amount is x[rs2] modulo 32. -/
theorem registerRegisterResults : Obligations.RegisterRegisterResults := by
  intro s rd rs1 rs2
  simp only [exec_eq_execute, ← boolWord_decide, ← toNat_shamtOf, ← shiftLeft_eq_ofNat, ← ushiftRight_eq_ofNat,
    ← sshiftRight_eq_ofInt]
  exact ⟨State.execute_binary, State.execute_binary, State.execute_binary, State.execute_binary, State.execute_binary,
    State.execute_binary, State.execute_binary, State.execute_binary, State.execute_binary, State.execute_binary⟩

end Sys2Proof.Machine
end

section
/-! Control transfer: what the jumps and the branches compute (O11, O12), and what an iteration of the only unit does with
the PC (O36, O37). -/

namespace Sys2Proof.Machine

/-! ### The jumps and the branches -/

section
variable {s : State} {rd rs1 rs2 : RegIx}

/-- R193: the link is the address after the jump's own. -/
theorem State.execute_jal {off : BitVec 21} :
    s.execute (actJal rd off) = .next ((s.setReg rd (s.ia + 4#32)).setNext (s.ia + immJ off) false) := rfl

/-- R194: the target is computed from the source as it was before the link was written. -/
theorem State.execute_jalr {imm : BitVec 12} :
    s.execute (actJalr rd rs1 imm) =
      .next ((s.setReg rd (s.ia + 4#32)).setNext ((s.reg rs1 + sext12 imm) &&& ~~~1#32) false) := rfl

/-- R195: a branch whose condition on the sources says `taken`. -/
theorem State.execute_branch {off : BitVec 13} {cond : Word → Word → Bool} {taken : Prop} [Decidable taken]
    (h : cond (s.reg rs1) (s.reg rs2) = true ↔ taken) :
    s.execute (branchForm rs1 rs2 off cond) =
      .next (s.setNext (if taken then s.ia + immB off else s.ia + 4#32) false) := by
  have hself : s.withCtx s.ctx = s := s.withVm_self
  rw [execute, branchForm, readBoth_run, Act.run]
  simp only [hself]
  exact congrArg (fun next => Host.Outcome.next (s.setNext next false)) (if_congr h rfl rfl)

end

/-- Settles O11, by the meanings of JAL and JALR. -/
theorem jumpResults : Obligations.JumpResults := fun _ _ _ _ _ => ⟨State.execute_jal, State.execute_jalr⟩

/-- Settles O12: the six branches are of one form, each with the condition its rule states. -/
theorem branchResults : Obligations.BranchResults := fun _ _ _ _ =>
  ⟨State.execute_branch beq_iff_eq, State.execute_branch bne_iff_ne, State.execute_branch decide_eq_true_iff,
    State.execute_branch decide_eq_true_iff, State.execute_branch decide_eq_true_iff,
    State.execute_branch decide_eq_true_iff⟩

/-! ### The top of the loop (R303, R305) -/

/-- R303, where the test fails. -/
theorem VM.mayBegin_eq_false_iff {vm : VM} : vm.mayBegin = false ↔
    vm.tick.haltFlag = true ∨ vm.tick.abortFlag = true ∨ vm.vmStatus ≠ .running ∨
      vm.tick.budget.toNat ≤ vm.tick.executed := by
  simp only [VM.mayBegin, Bool.and_eq_false_iff, Bool.not_eq_false', decide_eq_false_iff_not, not_lt, or_assoc, ne_eq]

/-- In single-unit mode, while the unit is in its loop, a step from a PC that a tick may have is one iteration (R320). -/
theorem step_eq_iterate {s : State} (hr : s.running = true) (hn : s.cfg.nUnits = 1) {x : ExecUnit} {xs : List ExecUnit}
    (hu : s.vm.tick.units = x :: xs) (hp : x.phase ≠ .left)
    (hpc : s.vm.cpu.pc.toNat % 4 = 0 ∨ s.vm.cpu.pc = s.cfg.haltPc) : step s = iterate s := by
  have hlegal : legalPc s.cfg s.vm.cpu.pc = true := legalPc_iff.2 hpc
  have hsingle : singleStep s = iterate s := by unfold singleStep; rw [hu]; exact if_neg hp
  simp [step, hr, tickStep, hlegal, hn, hsingle]

theorem iterate_of_not_mayBegin {s : State} (h : s.vm.mayBegin = false) :
    iterate s = .next (s.withVm (s.vm.goto 0 .left)) := by
  simp [iterate, h]

theorem iterate_at_haltPc {s : State} (hb : s.vm.mayBegin = true) (hl : s.vm.tick.lock = false)
    (hpc : s.vm.cpu.pc = s.cfg.haltPc) : iterate s = .next (s.withVm (s.vm.raiseHalt.goto 0 .left)) := by
  simp [iterate, hb, hl, hpc]

/-- Settles O37: the step is an iteration, which ends at the top or at HALT_PC, and from a PC no tick may have there is
none. -/
theorem iterationStopsAtTheTop : Obligations.IterationStopsAtTheTop := by
  refine ⟨fun s x hr hn hu hp hl => ⟨fun hpc hstop => ?_, fun hb hpc => ?_⟩, fun s hr ha hpc => ?_⟩
  · rw [step_eq_iterate hr hn hu hp hpc, iterate_of_not_mayBegin (VM.mayBegin_eq_false_iff.2 hstop)]
  · rw [step_eq_iterate hr hn hu hp (.inr hpc), iterate_at_haltPc hb hl hpc]
  · have hillegal : legalPc s.cfg s.vm.cpu.pc ≠ true := fun h => (legalPc_iff.1 h).elim ha hpc
    exact step_illegalPc hr (Bool.eq_false_of_not_eq_true hillegal)

/-! ### The profiler's record (R372) -/

theorem VM.profRecord_slot (vm : VM) (a : Word) :
    (vm.profRecord a).prof[profSlot a] = (vm.prof[profSlot a]).record a :=
  Vector.getElem_set_self (profSlot a).isLt

theorem VM.profRecord_other (vm : VM) {a : Word} {k : Fin 256} (h : k ≠ profSlot a) :
    (vm.profRecord a).prof[k] = vm.prof[k] :=
  Vector.getElem_set_ne (profSlot a).isLt k.isLt (Fin.val_ne_of_ne h.symm)

/-! ### The end of an iteration (R308 to R312) -/

/-- Where the unit goes at the end of an iteration that leaves this VM. -/
def VM.endPhase (vm : VM) (u : Nat) : Phase := if vm.guardFires = true ∨ (vm.unit u).stop = true then .left else .top

/-- The VM after the runaway guard (R312). -/
def VM.guarded (vm : VM) : VM := { vm with tick := { vm.tick with abortFlag := vm.tick.abortFlag || vm.guardFires } }

/-- The abort flag and the unit's place at the end of an iteration, whichever way it ends. -/
theorem VM.endIteration_eq_goto (vm : VM) (u : Nat) : vm.endIteration u = vm.guarded.goto u (vm.endPhase u) := by
  unfold VM.endIteration VM.guarded VM.endPhase
  cases vm.guardFires <;> cases (vm.unit u).stop <;> simp

theorem VM.goto_phase (vm : VM) {u : Nat} (hu : u < vm.tick.units.length) (p : Phase) :
    ((vm.goto u p).unit u).phase = p := by
  rw [VM.goto, VM.unit_setUnit _ _ _ hu]

/-- In single-unit mode, the VM once the executed instruction is committed, counted and profiled (R309 to R311). -/
def VM.committed (vm : VM) (u : Nat) : VM := ((vm.setPc (vm.unit u).next).countOne).profRecord (vm.unit u).ia

theorem VM.finish_single {cfg : Config} (hn : cfg.nUnits = 1) (vm : VM) (u : Nat) :
    vm.finish cfg u = (vm.committed u).endIteration u := by
  rw [VM.finish, VM.commitNext, if_pos hn, VM.committed]

/-- R312, of the count that includes the executed instruction. -/
theorem VM.committed_guardFires_iff (vm : VM) (u : Nat) :
    (vm.committed u).guardFires = true ↔ 2 * vm.tick.budget.toNat < vm.tick.executed + 1 := decide_eq_true_iff

/-! ### The iteration of the only unit -/

/-- What the claim and then the instruction leave for the end of the iteration: the profiler and the scheduler state are as
they were but for the halt flag and the units, and unit 0 has executed the instruction at the PC (R306, R307). -/
theorem State.AtFetch.exec_claim {s u : State} {i : Instr} (h : s.AtFetch) (hx : exec i s.claim = .next u) :
    u.vm.prof = s.vm.prof ∧
      u.vm.tick = { s.vm.tick with
        lock := false, turn := 0, haltFlag := u.vm.tick.haltFlag, units := u.vm.tick.units } ∧
      0 < u.vm.tick.units.length ∧ (u.vm.unit 0).ia = s.vm.cpu.pc ∧ u.unit = u.vm.unit 0 := by
  have hout := exec_sameOutside hx
  have hclaim : s.claim.vm = (s.vm.setTurn 0).claim 0 := State.withVm_vm ..
  have htick : u.vm.tick = { s.vm.tick with
      lock := false, turn := 0, haltFlag := u.vm.tick.haltFlag, units := u.vm.tick.units } :=
    hout.tick.trans (by rw [hclaim]; rfl)
  have hunit : u.unit = u.vm.unit 0 := by rw [State.unit, htick]
  refine ⟨hout.prof.trans (by rw [hclaim]; rfl), htick, ?_, ?_, hunit⟩
  · obtain ⟨x, xs, hu, -⟩ := h.unit
    have hlen : s.claim.vm.tick.units.length = s.vm.tick.units.length := by rw [hclaim]; exact List.length_set
    rw [hout.unitCount, hlen, hu]
    exact Nat.succ_pos _
  · rw [← hunit, hout.unit]
    exact h.claim_ia

/-- A step that goes on to fetch, and answers a next state, ends the iteration of the fetched instruction. -/
theorem State.AtFetch.eq_finish {s t u : State} {w : Word} (h : s.AtFetch)
    (hf : fetchWord s.cfg s.vm s.vm.cpu.pc = .ok w) (hx : exec (decodeWord s.cfg.fpCodes w) s.claim = .next u)
    (ht : step s = .next t) : t = u.finish := by
  cases hd : decodable s.cfg w with
  | false => rw [h.step_looseDecode hf hd] at ht; cases ht
  | true => rw [h.step_exec hf hd, hx] at ht; cases ht; rfl

/-- Settles O36: the instruction leaves its unit's next-address and stop, from which the end of the iteration makes the PC,
the count, the profiler's record, the abort flag and the unit's place. -/
theorem iterationCommitsTheNextAddress : Obligations.IterationCommitsTheNextAddress := by
  rintro s t u x _ w hr hn hu hp hb hl hpc ha hf rfl hx ht
  have at_ : s.AtFetch := ⟨hr, hn, ⟨x, [], hu, hp⟩, hb, hl, hpc, ha⟩
  obtain ⟨hprof, htick, hlen, hia, hunit⟩ := at_.exec_claim hx
  have hguard : (u.vm.committed 0).guardFires = true ↔ 2 * s.vm.tick.budget.toNat < s.vm.tick.executed + 1 := by
    rw [VM.committed_guardFires_iff, htick]
  have hun : u.cfg.nUnits = 1 := by rw [(exec_sameOutside hx).cfg]; exact hn
  have hvm : t.vm = (u.vm.committed 0).guarded.goto 0 ((u.vm.committed 0).endPhase 0) := by
    rw [at_.eq_finish hf hx ht, State.finish, State.withVm_vm, VM.finish_single hun, VM.endIteration_eq_goto]
  have hrecord : t.vm.prof = (u.vm.profRecord s.vm.cpu.pc).prof := by rw [hvm, ← hia]; rfl
  have hslot : t.vm.prof[profSlot s.vm.cpu.pc] = (s.vm.prof[profSlot s.vm.cpu.pc]).record s.vm.cpu.pc := by
    rw [hrecord, VM.profRecord_slot, hprof]
  rw [hunit]
  refine ⟨by rw [hvm]; rfl, ?_, ⟨congrArg (·.count) hslot, congrArg (·.address) hslot, fun j hj => ?_⟩,
    by rw [hvm]; rfl, by rw [hvm]; rfl, by rw [hvm]; rfl, ?_, ?_⟩
  · rw [hvm]
    exact congrArg (·.executed + 1) htick
  · rw [hrecord, VM.profRecord_other _ hj, hprof]
  · have habort : u.vm.tick.abortFlag = s.vm.tick.abortFlag := by rw [htick]
    rw [← hguard, ← habort, hvm]
    exact Bool.or_eq_true_iff
  · rw [hvm, VM.goto_phase (u.vm.committed 0).guarded hlen]
    exact if_congr (or_congr_left hguard) rfl rfl

end Sys2Proof.Machine
end

section
/-! The order of the values (O21, O20): the comparisons read the bits without the sign as an integer, of which the magnitude is
a strictly rising function, so the signed bits order the operands as their values do, the infinities included. -/

namespace Sys2Proof.Machine

/-! ### The order of the values -/

/-- A word is its sign and its bits v[30:0]. -/
theorem Fp.eq_of_sign_of_mag {v w : Word} (hs : sign v = sign w) (hm : mag v = mag w) : v = w := by
  refine BitVec.eq_of_getLsbD_eq fun i hi => ?_
  rcases Nat.lt_succ_iff_lt_or_eq.1 hi with h | rfl
  · have := congrArg (BitVec.getLsbD · i) (BitVec.eq_of_toNat_eq hm)
    simpa [BitVec.getLsbD_extractLsb', h] using this
  · exact hs

/-- The formula of the finite values puts an infinity at 2^277 units, one quantum past the largest finite value (R8). -/
theorem Fp.signedUnits_of_isInf {v : Word} (h : isInf v = true) :
    signedUnits v = if sign v = true then -(2 ^ 277) else 2 ^ 277 := by
  rw [signedUnits_eq, units_eq, (isInf_iff v).1 h, magUnits_inf]; split <;> omega

theorem Fp.signedUnits_bounds {v : Word} (hnan : isNaN v = false) (hinf : isInf v = false) :
    -(2 ^ 277) < signedUnits v ∧ signedUnits v < 2 ^ 277 := by
  have hlt : units v < 2 ^ 23 * 2 ^ 254 := by
    rw [units_eq, ← magUnits_inf]; exact magUnits_strictMono ((finite_iff v).1 ⟨hnan, hinf⟩)
  rw [signedUnits_eq]; split <;> omega

theorem Fp.key_lt_iff {a b : Word} : key a < key b ↔ signedUnits a < signedUnits b := by
  have hab : units a < units b ↔ mag a < mag b := by rw [units_eq, units_eq, magUnits_strictMono.lt_iff_lt]
  have hba : units b < units a ↔ mag b < mag a := by rw [units_eq, units_eq, magUnits_strictMono.lt_iff_lt]
  have ha : units a = 0 ↔ mag a = 0 := by rw [units_eq, magUnits_eq_zero]
  have hb : units b = 0 ↔ mag b = 0 := by rw [units_eq, magUnits_eq_zero]
  rw [key, key, signedUnits_eq, signedUnits_eq]
  split <;> split <;> omega

theorem Fp.key_le_iff {a b : Word} : key a ≤ key b ↔ signedUnits a ≤ signedUnits b := by
  rw [← not_lt, ← not_lt, key_lt_iff]

theorem Fp.key_eq_iff {a b : Word} : key a = key b ↔ signedUnits a = signedUnits b := by
  rw [le_antisymm_iff, le_antisymm_iff, key_le_iff, key_le_iff]

/-! ### The comparisons -/

theorem boolWord_eq_zero_or_one (b : Bool) : boolWord b = 0#32 ∨ boolWord b = 1#32 := by cases b <;> decide

theorem boolWord_eq_one_iff {b : Bool} : boolWord b = 1#32 ↔ b = true := by cases b <;> decide

theorem Fp.ordered_eq_false {a b : Word} (h : isNaN a = true ∨ isNaN b = true) : ordered a b = false := by
  rcases h with h | h <;> simp [ordered, h]

section Ordered
variable {a b : Word} (ha : Fp.isNaN a = false) (hb : Fp.isNaN b = false)
include ha hb

theorem Fp.ordered_eq_true : ordered a b = true := by simp [ordered, ha, hb]

theorem Fp.eq_eq_one_iff : eq a b = 1#32 ↔ key a = key b := by
  rw [eq, ordered_eq_true ha hb, boolWord_eq_one_iff, Bool.true_and, decide_eq_true_iff]

theorem Fp.lt_eq_one_iff : lt a b = 1#32 ↔ key a < key b := by
  rw [lt, ordered_eq_true ha hb, boolWord_eq_one_iff, Bool.true_and, decide_eq_true_iff]

theorem Fp.le_eq_one_iff : le a b = 1#32 ↔ key a ≤ key b := by
  rw [le, ordered_eq_true ha hb, boolWord_eq_one_iff, Bool.true_and, decide_eq_true_iff]

end Ordered

/-- Settles O21: the keys compare as the values do, an infinity's being what the formula of the finite values gives. -/
theorem comparisonsOrderValues : Obligations.ComparisonsOrderValues := by
  intro a b value
  have hvalue : ∀ x, value x = Fp.signedUnits x := fun x => by
    simp only [value]
    split
    · next h => exact (Fp.signedUnits_of_isInf h).symm
    · rfl
  refine ⟨?_, fun h => ?_, fun ha hb => ?_, Fp.signedUnits_bounds⟩
  · simp only [List.forall_mem_cons]
    exact ⟨boolWord_eq_zero_or_one _, boolWord_eq_zero_or_one _, boolWord_eq_zero_or_one _, by simp⟩
  · rw [Fp.eq, Fp.lt, Fp.le, Fp.ordered_eq_false h]
    exact ⟨rfl, rfl, rfl⟩
  · rw [hvalue, hvalue, Fp.eq_eq_one_iff ha hb, Fp.lt_eq_one_iff ha hb, Fp.le_eq_one_iff ha hb]
    exact ⟨Fp.key_eq_iff, Fp.key_lt_iff, Fp.key_le_iff⟩

/-! ### FMIN and FMAX -/

theorem Fp.mag_of_isZero {v : Word} (h : isZero v = true) : mag v = 0 := of_decide_eq_true h

theorem Fp.zero_sign_of_isZero {v : Word} (h : isZero v = true) : zero (sign v) = v := by
  refine eq_of_sign_of_mag (by cases sign v <;> decide) ?_
  rw [mag_of_isZero h]; cases sign v <;> decide

theorem Fp.key_of_isZero {v : Word} (h : isZero v = true) : key v = 0 := by
  rw [key, mag_of_isZero h]; split <;> rfl

/-- R248: the zero picked of two zeros is one of them. -/
theorem Fp.zero_zeroSign (p : ZeroPick) {a b : Word} (ha : isZero a = true) (hb : isZero b = true) :
    zero (zeroSign p (sign a) (sign b)) = a ∨ zero (zeroSign p (sign a) (sign b)) = b := by
  have hpick : zeroSign p (sign a) (sign b) = sign a ∨ zeroSign p (sign a) (sign b) = sign b := by
    cases p <;> cases sign a <;> cases sign b <;> decide
  exact hpick.imp (fun h => by rw [h, zero_sign_of_isZero ha]) (fun h => by rw [h, zero_sign_of_isZero hb])

/-- What FMIN and FMAX share past the NaN rule: the configured zero of two, else the operand that `R` puts first. -/
def Fp.pick (p : ZeroPick) (R : Int → Int → Prop) [DecidableRel R] (a b : Word) : Word :=
  if isZero a && isZero b then zero (zeroSign p (sign a) (sign b)) else if R (key a) (key b) then a else b

theorem Fp.pick_cases (p : ZeroPick) {R : Int → Int → Prop} [DecidableRel R] (htotal : ∀ x y, R x y ∨ R y x)
    (a b : Word) : pick p R a b = a ∧ R (key a) (key b) ∨ pick p R a b = b ∧ R (key b) (key a) := by
  unfold pick
  split
  · next h =>
    obtain ⟨hza, hzb⟩ := Bool.and_eq_true_iff.1 h
    have hrefl : R 0 0 := or_self_iff.1 (htotal 0 0)
    rw [key_of_isZero hza, key_of_isZero hzb]
    exact (zero_zeroSign p hza hzb).imp (⟨·, hrefl⟩) (⟨·, hrefl⟩)
  · split
    · next h => exact .inl ⟨rfl, h⟩
    · next h => exact .inr ⟨rfl, (htotal _ _).resolve_left h⟩

section Ordered
variable (cfg : Config) {a b : Word} (ha : Fp.isNaN a = false) (hb : Fp.isNaN b = false)
include ha hb

theorem Fp.min_eq_pick : min cfg a b = pick cfg.fminZero (· ≤ ·) a b := by simp [min, pick, ha, hb]

theorem Fp.max_eq_pick : max cfg a b = pick cfg.fmaxZero (· ≥ ·) a b := by simp [max, pick, ha, hb]

/-- R241: FMIN answers an operand that FLE puts before both. -/
theorem Fp.min_le : (min cfg a b = a ∨ min cfg a b = b) ∧ le (min cfg a b) a = 1#32 ∧ le (min cfg a b) b = 1#32 := by
  rw [min_eq_pick cfg ha hb]
  rcases pick_cases cfg.fminZero le_total a b with ⟨h, hk⟩ | ⟨h, hk⟩
  · rw [h, le_eq_one_iff ha ha, le_eq_one_iff ha hb]; exact ⟨.inl rfl, le_rfl, hk⟩
  · rw [h, le_eq_one_iff hb ha, le_eq_one_iff hb hb]; exact ⟨.inr rfl, hk, le_rfl⟩

/-- R242: FMAX answers an operand that FLE puts after both. -/
theorem Fp.le_max : (max cfg a b = a ∨ max cfg a b = b) ∧ le a (max cfg a b) = 1#32 ∧ le b (max cfg a b) = 1#32 := by
  rw [max_eq_pick cfg ha hb]
  rcases pick_cases cfg.fmaxZero (R := (· ≥ ·)) (fun x y => le_total y x) a b with ⟨h, hk⟩ | ⟨h, hk⟩
  · rw [h, le_eq_one_iff ha ha, le_eq_one_iff hb ha]; exact ⟨.inl rfl, le_rfl, hk⟩
  · rw [h, le_eq_one_iff ha hb, le_eq_one_iff hb hb]; exact ⟨.inr rfl, hk, le_rfl⟩

end Ordered

/-- R241, R242 case 3: of -0 and +0, in this order, the configuration's pick. -/
theorem Fp.minMax_negative_positive (cfg : Config) :
    min cfg 0x80000000#32 0#32 = zero (zeroSign cfg.fminZero true false) ∧
      max cfg 0x80000000#32 0#32 = zero (zeroSign cfg.fmaxZero true false) := ⟨rfl, rfl⟩

/-- R241, R242 case 3: of +0 and -0, in this order, the configuration's pick. -/
theorem Fp.minMax_positive_negative (cfg : Config) :
    min cfg 0#32 0x80000000#32 = zero (zeroSign cfg.fminZero false true) ∧
      max cfg 0#32 0x80000000#32 = zero (zeroSign cfg.fmaxZero false true) := ⟨rfl, rfl⟩

/-- Settles O20: by which operands are NaN; of two that are not, the answer is one of them, in order by its key. -/
theorem minMaxRules : Obligations.MinMaxRules := by
  intro cfg a b
  refine ⟨fun ha hb => ?_, fun ha hb => ?_, fun ha hb => ?_, ⟨?_, ?_, ?_, ?_⟩, rfl, rfl⟩
  · simp [Fp.min, Fp.max, ha, hb]
  · simp [Fp.min, Fp.max, ha, hb]
  · obtain ⟨hmin, hmina, hminb⟩ := Fp.min_le cfg ha hb
    obtain ⟨hmax, hmaxa, hmaxb⟩ := Fp.le_max cfg ha hb
    exact ⟨hmin, hmax, hmina, hminb, hmaxa, hmaxb⟩
  · rw [(Fp.minMax_negative_positive cfg).1]; cases cfg.fminZero <;> rfl
  · rw [(Fp.minMax_positive_negative cfg).1]; cases cfg.fminZero <;> rfl
  · rw [(Fp.minMax_negative_positive cfg).2]; cases cfg.fmaxZero <;> rfl
  · rw [(Fp.minMax_positive_negative cfg).2]; cases cfg.fmaxZero <;> rfl

end Sys2Proof.Machine
end

section
/-! The NaN rule (O18) and the special cases of the arithmetic (O19). -/

namespace Sys2Proof.Machine

/-! ### Flushing keeps what the special cases read -/

@[simp] theorem Fp.sign_zero (s : Bool) : sign (zero s) = s := by cases s <;> decide
@[simp] theorem Fp.isNaN_zero (s : Bool) : isNaN (zero s) = false := by cases s <;> decide
@[simp] theorem Fp.isInf_zero (s : Bool) : isInf (zero s) = false := by cases s <;> decide
@[simp] theorem Fp.isNaN_inf (s : Bool) : isNaN (inf s) = false := by cases s <;> decide

/-- U9: flushing leaves a value as it is, or puts the zero of its sign for a subnormal. -/
theorem Fp.flush_cases (cfg : Config) (v : Word) : flush cfg v = v ∨ isSubnormal v = true ∧ flush cfg v = zero (sign v) := by
  unfold flush
  split
  · next h => exact .inr ⟨(Bool.and_eq_true_iff.1 h).2, rfl⟩
  · exact .inl rfl

@[simp] theorem Fp.sign_flush (cfg : Config) (v : Word) : sign (flush cfg v) = sign v := by
  rcases flush_cases cfg v with h | ⟨-, h⟩ <;> simp [h]

@[simp] theorem Fp.isNaN_flush (cfg : Config) (v : Word) : isNaN (flush cfg v) = isNaN v := by
  rcases flush_cases cfg v with h | ⟨hsub, h⟩
  · rw [h]
  · have hnan : isNaN v = false := by rw [← Bool.not_eq_true, isNaN_iff]; have := (isSubnormal_iff v).1 hsub; omega
    rw [h, isNaN_zero, hnan]

@[simp] theorem Fp.isInf_flush (cfg : Config) (v : Word) : isInf (flush cfg v) = isInf v := by
  rcases flush_cases cfg v with h | ⟨hsub, h⟩
  · rw [h]
  · have hinf : isInf v = false := by rw [← Bool.not_eq_true, isInf_iff]; have := (isSubnormal_iff v).1 hsub; omega
    rw [h, isInf_zero, hinf]

theorem Fp.flush_of_isInf (cfg : Config) {v : Word} (h : isInf v = true) : flush cfg v = v := by
  rcases flush_cases cfg v with hv | ⟨hsub, -⟩
  · exact hv
  · have := (isInf_iff v).1 h; have := (isSubnormal_iff v).1 hsub; omega

theorem Fp.flush_of_isZero (cfg : Config) {v : Word} (h : isZero v = true) : flush cfg v = v := by
  rcases flush_cases cfg v with hv | ⟨-, hv⟩
  · exact hv
  · rw [hv, zero_sign_of_isZero h]

theorem Fp.isInf_of_isZero {v : Word} (h : isZero v = true) : isInf v = false := by
  rw [← Bool.not_eq_true, isInf_iff, mag_of_isZero h]; decide

theorem Fp.isZero_of_isInf {v : Word} (h : isInf v = true) : isZero v = false := by
  by_contra hz
  rw [isInf_of_isZero (Bool.eq_true_of_not_eq_false hz)] at h; cases h

/-! ### The NaN rule -/

/-- R233: a NaN among the arithmetic's results is QNAN. -/
def Fp.NanIsQnan (cfg : Config) (r : Word) : Prop := isNaN r = true → r = cfg.qnan

section NanIsQnan
variable {cfg : Config} {a b r : Word}

theorem Fp.NanIsQnan.qnan : NanIsQnan cfg cfg.qnan := fun _ => rfl

theorem Fp.NanIsQnan.of_isNaN_eq_false (h : isNaN r = false) : NanIsQnan cfg r := fun hn => by rw [h] at hn; cases hn

theorem Fp.NanIsQnan.ite {p : Prop} [Decidable p] {x y : Word} (hx : NanIsQnan cfg x) (hy : NanIsQnan cfg y) :
    NanIsQnan cfg (if p then x else y) := by split <;> assumption

/-- R234: no rounding mode takes a magnitude beyond the bits of infinity. -/
theorem Fp.roundMag_le_inf (mode : RoundMode) (s : Bool) (num den : Nat) : roundMag mode s num den ≤ 0x7F800000 := by
  have hover : overflowMag mode s ≤ 0x7F800000 := by cases mode <;> cases s <;> decide
  have hclip : ∀ bits : Nat, (if 0x7F800000 ≤ bits then overflowMag mode s else bits) ≤ 0x7F800000 := fun bits => by
    split <;> omega
  exact hclip _

theorem Fp.isNaN_round (s : Bool) (num den : Nat) : isNaN (round cfg s num den) = false := by
  have hle := roundMag_le_inf cfg.fpRound s num den
  rw [round, isNaN_flush, ← Bool.not_eq_true, isNaN_iff, mag_pack (by omega)]
  omega

/-- The values, other than an operand or QNAN, that the arithmetic answers are not NaN. -/
theorem Fp.NanIsQnan.zero (s : Bool) : NanIsQnan cfg (zero s) := of_isNaN_eq_false (isNaN_zero s)
theorem Fp.NanIsQnan.inf (s : Bool) : NanIsQnan cfg (inf s) := of_isNaN_eq_false (isNaN_inf s)
theorem Fp.NanIsQnan.round (s : Bool) (num den : Nat) : NanIsQnan cfg (round cfg s num den) :=
  of_isNaN_eq_false (isNaN_round s num den)

theorem Fp.addCore_nanIsQnan (ha : isNaN a = false) (hb : isNaN b = false) : NanIsQnan cfg (addCore cfg a b) :=
  .ite (.ite (.of_isNaN_eq_false ha) .qnan) <| .ite (.of_isNaN_eq_false ha) <| .ite (.of_isNaN_eq_false hb) <|
    .ite (.ite (.of_isNaN_eq_false ha) (.zero _)) <| .ite (.zero _) (.round _ _ _)

theorem Fp.mulCore_nanIsQnan : NanIsQnan cfg (mulCore cfg a b) :=
  .ite .qnan <| .ite (.inf _) <| .ite (.zero _) (.round _ _ _)

theorem Fp.divCore_nanIsQnan : NanIsQnan cfg (divCore cfg a b) :=
  .ite (.ite .qnan (.inf _)) <| .ite (.ite .qnan (.zero _)) <| .ite (.inf _) <| .ite (.zero _) (.round _ _ _)

theorem Fp.sqrtCore_nanIsQnan (ha : isNaN a = false) : NanIsQnan cfg (sqrtCore cfg a) :=
  .ite (.of_isNaN_eq_false ha) <| .ite .qnan <| .ite (.of_isNaN_eq_false ha) (.round _ _ _)

/-- R233, of an operation on two operands that answers QNAN for a NaN and the core of the operation otherwise. -/
theorem Fp.NanIsQnan.binary {x : Word} (h : isNaN a = false → isNaN b = false → NanIsQnan cfg x) :
    NanIsQnan cfg (if (isNaN a || isNaN b) = true then cfg.qnan else x) := by
  split
  · exact .qnan
  · next hn =>
    obtain ⟨ha, hb⟩ := Bool.or_eq_false_iff.1 (Bool.eq_false_of_not_eq_true hn)
    exact h ha hb

theorem Fp.add_nanIsQnan : NanIsQnan cfg (add cfg a b) :=
  .binary fun ha hb => addCore_nanIsQnan ((isNaN_flush cfg a).trans ha) ((isNaN_flush cfg b).trans hb)

theorem Fp.sub_nanIsQnan : NanIsQnan cfg (sub cfg a b) := .binary fun _ _ => add_nanIsQnan

theorem Fp.mul_nanIsQnan : NanIsQnan cfg (mul cfg a b) := .binary fun _ _ => mulCore_nanIsQnan

theorem Fp.div_nanIsQnan : NanIsQnan cfg (div cfg a b) := .binary fun _ _ => divCore_nanIsQnan

theorem Fp.sqrt_nanIsQnan : NanIsQnan cfg (sqrt cfg a) := by
  unfold sqrt
  split
  · exact .qnan
  · next hn => exact sqrtCore_nanIsQnan ((isNaN_flush cfg a).trans (Bool.eq_false_of_not_eq_true hn))

end NanIsQnan

/-- Settles O18: each operation tests for a NaN operand first, and no other branch of it answers a NaN but QNAN. -/
theorem nanRule : Obligations.NanRule := by
  refine ⟨rfl, fun cfg a b => ⟨fun h => ?_, fun h => by rw [Fp.sqrt, h]; rfl, ?_⟩⟩
  · have hn : (Fp.isNaN a || Fp.isNaN b) = true := Bool.or_eq_true_iff.2 h
    rw [Fp.add, Fp.sub, Fp.mul, Fp.div, hn]
    exact ⟨rfl, rfl, rfl, rfl⟩
  · simp only [List.forall_mem_cons]
    exact ⟨Fp.add_nanIsQnan, Fp.sub_nanIsQnan, Fp.mul_nanIsQnan, Fp.div_nanIsQnan, Fp.sqrt_nanIsQnan, by simp⟩

/-! ### Flipping a sign -/

theorem Fp.sign_flipSign (v : Word) : sign (v ^^^ 0x80000000#32) = !sign v := by simp [sign]

theorem Fp.isNaN_flipSign (v : Word) : isNaN (v ^^^ 0x80000000#32) = isNaN v := by
  rw [Bool.eq_iff_iff, isNaN_iff, isNaN_iff, mag_flipSign]

theorem Fp.isInf_flipSign (v : Word) : isInf (v ^^^ 0x80000000#32) = isInf v := by
  rw [Bool.eq_iff_iff, isInf_iff, isInf_iff, mag_flipSign]

theorem Fp.isZero_flipSign (v : Word) : isZero (v ^^^ 0x80000000#32) = isZero v := by
  rw [isZero, isZero, mag_flipSign]

theorem Fp.flush_flipSign (cfg : Config) (v : Word) :
    flush cfg (v ^^^ 0x80000000#32) = flush cfg v ^^^ 0x80000000#32 := by
  have hsub : isSubnormal (v ^^^ 0x80000000#32) = isSubnormal v := by
    rw [Bool.eq_iff_iff, isSubnormal_iff, isSubnormal_iff, mag_flipSign]
  rw [flush, flush, hsub, sign_flipSign]
  split
  · cases sign v <;> decide
  · rfl

/-! ### The special cases -/

section Operands
variable (cfg : Config) {a b : Word} (ha : Fp.isNaN a = false) (hb : Fp.isNaN b = false)
include ha hb

/-- R236 to R239 past the NaN rule. -/
theorem Fp.add_eq_addCore : add cfg a b = addCore cfg (flush cfg a) (flush cfg b) := by simp [add, ha, hb]

theorem Fp.sub_eq_add : sub cfg a b = add cfg a (b ^^^ 0x80000000#32) := by simp [sub, ha, hb]

theorem Fp.mul_eq_mulCore : mul cfg a b = mulCore cfg (flush cfg a) (flush cfg b) := by simp [mul, ha, hb]

theorem Fp.div_eq_divCore : div cfg a b = divCore cfg (flush cfg a) (flush cfg b) := by simp [div, ha, hb]

/-- R236: two infinities. -/
theorem Fp.add_inf_inf (hia : isInf a = true) (hib : isInf b = true) :
    add cfg a b = if sign a = sign b then a else cfg.qnan := by
  simp [add_eq_addCore cfg ha hb, flush_of_isInf, addCore, hia, hib]

/-- R236: an infinity before a value that is not one. -/
theorem Fp.add_inf_left (hia : isInf a = true) (hib : isInf b = false) : add cfg a b = a := by
  simp [add_eq_addCore cfg ha hb, flush_of_isInf cfg hia, addCore, hia, hib]

/-- R236: an infinity after a value that is not one. -/
theorem Fp.add_inf_right (hia : isInf a = false) (hib : isInf b = true) : add cfg a b = b := by
  simp [add_eq_addCore cfg ha hb, flush_of_isInf cfg hib, addCore, hia, hib]

/-- R236: two zeros. -/
theorem Fp.add_zero_zero (hza : isZero a = true) (hzb : isZero b = true) :
    add cfg a b = if sign a = sign b then a else 0#32 := by
  simp [add_eq_addCore cfg ha hb, flush_of_isZero, addCore, hza, hzb, isInf_of_isZero, zero]

/-- R238: an infinity and a zero. -/
theorem Fp.mul_inf_zero (hia : isInf a = true) (hzb : isZero b = true) : mul cfg a b = cfg.qnan := by
  simp [mul_eq_mulCore cfg ha hb, flush_of_isInf cfg hia, flush_of_isZero cfg hzb, mulCore, hia, hzb]

/-- R238: an infinity and a value that is not a zero. -/
theorem Fp.mul_inf_left (hia : isInf a = true) (hzb : isZero (flush cfg b) = false) :
    mul cfg a b = inf (xor (sign a) (sign b)) := by
  simp [mul_eq_mulCore cfg ha hb, flush_of_isInf cfg hia, mulCore, hia, hzb, isZero_of_isInf hia]

/-- R238: a zero and a value that is not an infinity. -/
theorem Fp.mul_zero_left (hza : isZero a = true) (hib : isInf b = false) :
    mul cfg a b = zero (xor (sign a) (sign b)) := by
  simp [mul_eq_mulCore cfg ha hb, flush_of_isZero cfg hza, mulCore, hza, hib, isInf_of_isZero hza]

/-- R239: two zeros. -/
theorem Fp.div_zero_zero (hza : isZero a = true) (hzb : isZero b = true) : div cfg a b = cfg.qnan := by
  simp [div_eq_divCore cfg ha hb, flush_of_isZero, divCore, hza, hzb]

/-- R239: a value that is not a zero by a zero. -/
theorem Fp.div_zero_right (hza : isZero (flush cfg a) = false) (hzb : isZero b = true) :
    div cfg a b = inf (xor (sign a) (sign b)) := by
  simp [div_eq_divCore cfg ha hb, flush_of_isZero cfg hzb, divCore, hza, hzb]

/-- R239: two infinities. -/
theorem Fp.div_inf_inf (hia : isInf a = true) (hib : isInf b = true) : div cfg a b = cfg.qnan := by
  simp [div_eq_divCore cfg ha hb, flush_of_isInf, divCore, hia, hib, isZero_of_isInf hib]

/-- R239: a value that is not an infinity by an infinity. -/
theorem Fp.div_inf_right (hia : isInf a = false) (hib : isInf b = true) :
    div cfg a b = zero (xor (sign a) (sign b)) := by
  simp [div_eq_divCore cfg ha hb, flush_of_isInf cfg hib, divCore, hia, hib, isZero_of_isInf hib]

/-- R239: an infinity by a value that is not one, a zero included. -/
theorem Fp.div_inf_left (hia : isInf a = true) (hib : isInf b = false) :
    div cfg a b = inf (xor (sign a) (sign b)) := by
  simp [div_eq_divCore cfg ha hb, flush_of_isInf cfg hia, divCore, hia, hib, isZero_of_isInf hia]

/-- R239: a zero by a value that is not one, an infinity included. -/
theorem Fp.div_zero_left (hza : isZero a = true) (hzb : isZero (flush cfg b) = false) :
    div cfg a b = zero (xor (sign a) (sign b)) := by
  simp [div_eq_divCore cfg ha hb, flush_of_isZero cfg hza, divCore, hza, hzb, isInf_of_isZero hza]

end Operands

/-- R236: a value and its negation, not infinite, add to +0. -/
theorem Fp.addCore_flipSign (cfg : Config) {v : Word} (h : isInf v = false) :
    addCore cfg v (v ^^^ 0x80000000#32) = 0#32 := by
  simp [addCore, isInf_flipSign, sign_flipSign, signedUnits_flipSign, h, zero]

/-- R237: a value that is not infinite less itself is +0. -/
theorem Fp.sub_self (cfg : Config) {a : Word} (ha : isNaN a = false) (hia : isInf a = false) : sub cfg a a = 0#32 := by
  rw [sub_eq_add cfg ha ha, add_eq_addCore cfg ha ((isNaN_flipSign a).trans ha), flush_flipSign]
  exact addCore_flipSign cfg ((isInf_flush cfg a).trans hia)

theorem Fp.mul_comm (cfg : Config) (a b : Word) : mul cfg a b = mul cfg b a := by
  have hcore : ∀ x y, mulCore cfg x y = mulCore cfg y x := fun x y => by
    simp only [mulCore, Bool.xor_comm (sign x), Bool.or_comm (isInf x), Bool.or_comm (isZero x), Nat.mul_comm (units x),
      Bool.and_comm (isInf x), Bool.and_comm (isZero x), Bool.or_comm (isZero y && isInf x)]
  rw [mul, mul, hcore, Bool.or_comm]

/-- Settles O19: FSUB's cases are FADD's with the sign of b flipped, and FMUL's hold in either order. -/
theorem arithmeticSpecialCases : Obligations.ArithmeticSpecialCases := by
  intro cfg a b ha hb s
  have hnb : Fp.isNaN (b ^^^ 0x80000000#32) = false := (Fp.isNaN_flipSign b).trans hb
  have hsub : Fp.sub cfg a b = Fp.add cfg a (b ^^^ 0x80000000#32) := Fp.sub_eq_add cfg ha hb
  rw [Fp.mul_comm cfg b a]
  refine ⟨Fp.add_inf_inf cfg ha hb, fun hia hib => ?_,
    fun hia hib => ⟨Fp.add_inf_left cfg ha hb hia hib, ?_, Fp.add_inf_right cfg hb ha hib hia⟩,
    Fp.add_zero_zero cfg ha hb, Fp.sub_self cfg ha,
    fun hia hzb => and_self_iff.2 (Fp.mul_inf_zero cfg ha hb hia hzb),
    fun hia hzb => and_self_iff.2 (Fp.mul_inf_left cfg ha hb hia hzb),
    fun hza hib => and_self_iff.2 (Fp.mul_zero_left cfg ha hb hza hib),
    Fp.div_zero_zero cfg ha hb, Fp.div_zero_right cfg ha hb, Fp.div_inf_inf cfg ha hb, Fp.div_inf_right cfg ha hb,
    Fp.div_inf_left cfg ha hb, Fp.div_zero_left cfg ha hb⟩
  · rw [hsub, Fp.add_inf_inf cfg ha hnb hia ((Fp.isInf_flipSign b).trans hib), Fp.sign_flipSign]
    cases Fp.sign a <;> cases Fp.sign b <;> rfl
  · rw [hsub]
    exact Fp.add_inf_left cfg ha hnb hia ((Fp.isInf_flipSign b).trans hib)

end Sys2Proof.Machine
end

section
/-! FCVT.S.W (O25): rounding toward zero gives the largest bits whose value is not above the exact magnitude. -/

namespace Sys2Proof.Machine

/-! ### Rounding toward zero -/

/-- The bits `roundMag` gives toward zero when nothing overflows. -/
def Fp.truncBits (num den : Nat) : Nat := quantum num den * 2 ^ 23 + num / (den * 2 ^ quantum num den)

theorem Fp.roundMag_towardZero (s : Bool) (num den : Nat) :
    roundMag .towardZero s num den = if 0x7F800000 ≤ truncBits num den then 0x7F7FFFFF else truncBits num den := by
  have hup : ∀ q r d, roundsUp .towardZero s q r d = false := fun _ _ _ => rfl
  rw [truncBits, roundMag]
  simp only [hup, Bool.false_eq_true, if_false, Nat.add_zero, overflowMag]

/-- R247: with exponents unbounded, the bits not above `truncBits` are those whose value is not above the exact magnitude. -/
theorem Fp.le_truncBits_iff {num den : Nat} (hden : 0 < den) (k : Nat) :
    k ≤ truncBits num den ↔ magUnits k * den ≤ num := by
  obtain ⟨hq, hn⟩ := quantum_significand num den
  unfold truncBits
  generalize quantum num den = e at hq hn ⊢
  have hpos : 0 < den * 2 ^ e := Nat.mul_pos hden (Nat.two_pow_pos e)
  have hlo : num / (den * 2 ^ e) * (den * 2 ^ e) ≤ num := Nat.div_mul_le_self ..
  have hhi : num < (num / (den * 2 ^ e) + 1) * (den * 2 ^ e) := Nat.lt_mul_of_div_lt (Nat.lt_succ_self _) hpos
  generalize num / (den * 2 ^ e) = q at hq hn hlo hhi ⊢
  constructor
  · intro hk
    calc magUnits k * den ≤ magUnits (e * 2 ^ 23 + q) * den := Nat.mul_le_mul_right den (magUnits_strictMono.monotone hk)
      _ = q * (den * 2 ^ e) := by rw [magUnits_add hn hq.le]; ring
      _ ≤ num := hlo
  · intro hk
    by_contra hlt
    have hnext : e * 2 ^ 23 + (q + 1) ≤ k := by omega
    have : num < magUnits k * den :=
      calc num < (q + 1) * (den * 2 ^ e) := hhi
        _ = magUnits (e * 2 ^ 23 + (q + 1)) * den := by rw [magUnits_add (q := q + 1) (by omega) hq]; ring
        _ ≤ magUnits k * den := Nat.mul_le_mul_right den (magUnits_strictMono.monotone hnext)
    omega

/-! ### The conversion -/

theorem natAbs_toInt_le (v : Word) : v.toInt.natAbs ≤ 2 ^ 31 := by
  have := BitVec.le_toInt v
  have := BitVec.toInt_lt (x := v)
  omega

section Default
variable {cfg : Config} (h : cfg.cvtRound = .towardZero)
include h

/-- R247: no integer of 32 bits overflows, so the bits of the result are those of its magnitude rounded toward zero. -/
theorem Fp.mag_ofInt32 (v : Word) : mag (ofInt32 cfg v) = truncBits (v.toInt.natAbs * 2 ^ 149) 1 ∧
    mag (ofInt32 cfg v) < 0x7F800000 := by
  have hfit : ¬ 0x7F800000 ≤ truncBits (v.toInt.natAbs * 2 ^ 149) 1 := by
    have := natAbs_toInt_le v
    rw [le_truncBits_iff Nat.one_pos, magUnits_inf]; omega
  have hround : roundMag cfg.cvtRound (decide (v.toInt < 0)) (v.toInt.natAbs * 2 ^ 149) 1 =
      truncBits (v.toInt.natAbs * 2 ^ 149) 1 := by rw [h, roundMag_towardZero, if_neg hfit]
  have hmag : mag (ofInt32 cfg v) = truncBits (v.toInt.natAbs * 2 ^ 149) 1 := by
    rw [ofInt32, hround, mag_pack (by omega)]
  exact ⟨hmag, by omega⟩

/-- R247: the finite magnitudes not above the result's are those not above |v|. -/
theorem Fp.le_mag_ofInt32_iff (v : Word) (k : Nat) :
    k ≤ mag (ofInt32 cfg v) ↔ magUnits k ≤ v.toInt.natAbs * 2 ^ 149 := by
  rw [(mag_ofInt32 h v).1, le_truncBits_iff Nat.one_pos, Nat.mul_one]

/-- R247: an integer that is not 0 is at least the smallest normal magnitude. -/
theorem Fp.isSubnormal_ofInt32 (v : Word) : isSubnormal (ofInt32 cfg v) = false := by
  rw [← Bool.not_eq_true, isSubnormal_iff]
  rintro ⟨hpos, hsub⟩
  have hone : 1 ≤ v.toInt.natAbs * 2 ^ 149 := (le_mag_ofInt32_iff h v 1).1 hpos
  have hnormal : magUnits (2 ^ 23) = 2 ^ 23 := by decide
  have := (le_mag_ofInt32_iff h v (2 ^ 23)).not.1 (by omega)
  omega

end Default

theorem Fp.sign_ofInt32 (cfg : Config) (v : Word) : sign (ofInt32 cfg v) = decide (v.toInt < 0) := sign_pack ..

/-- Settles O25: the bits of the result are the largest whose value is not above |v|. -/
theorem integerToFloatTruncates : Obligations.IntegerToFloatTruncates := by
  intro cfg v w h r
  obtain ⟨hnan, hinf⟩ := (Fp.finite_iff r).2 (Fp.mag_ofInt32 h v).2
  refine ⟨hnan, hinf, Fp.isSubnormal_ofInt32 h v, ?_, ?_, ?_, fun _ _ hw => ?_⟩
  · rw [Fp.sign_ofInt32, decide_eq_true_iff]
  · rintro rfl
    simp only [r, Fp.ofInt32, h]
    decide
  · rw [Fp.units_eq]
    exact (Fp.le_mag_ofInt32_iff h v _).1 le_rfl
  · rw [Fp.units_eq] at hw
    rw [Fp.units_eq w, Fp.units_eq r]
    exact Fp.magUnits_strictMono.monotone ((Fp.le_mag_ofInt32_iff h v _).2 hw)

end Sys2Proof.Machine
end

section
/-! The floating-point instructions (O17): eleven are of the form with one source or two; FCVT.W.S draws where its value is out
of range. -/

namespace Sys2Proof.Machine

/-- R246: the truncation of the exact value, which is in units of 2^-149. -/
theorem Fp.truncInt_eq_tdiv (a : Word) : truncInt a = Int.tdiv (signedUnits a) (2 ^ 149) := by
  rw [truncInt, signedUnits_eq]
  split
  · rw [Int.neg_tdiv]; rfl
  · rfl

/-- R246: FCVT.W.S gives the truncated value where it is a signed 32-bit integer. -/
theorem Fp.toInt32_eq (a : Word) : toInt32 a =
    if isNaN a = false ∧ isInf a = false ∧ -(2 ^ 31) ≤ truncInt a ∧ truncInt a ≤ 2 ^ 31 - 1 then
      some (BitVec.ofInt 32 (truncInt a)) else none := by
  rw [toInt32]
  cases isNaN a <;> cases isInf a <;> simp

section
variable {s : State} {rd rs1 rs2 : RegIx} {f3 : BitVec 3}

/-- R246: a truncated value in range goes to rd. -/
theorem State.execute_fcvtWS_of_some {v : Word} (h : Fp.toInt32 (s.reg rs1) = some v) :
    s.execute (actFcvtWS rd rs1 rs2 f3) = .next (s.completes rd v) := by
  simp only [execute, actFcvtWS, Act.run, Event.perform]
  rw [show Fp.toInt32 (s.ctx.vm.reg rs1) = some v from h]
  rfl

/-- R246: out of range, the next draw goes to rd (log entry 6). -/
theorem State.execute_fcvtWS_of_none (h : Fp.toInt32 (s.reg rs1) = none) :
    s.execute (actFcvtWS rd rs1 rs2 f3) =
      .next { s.completes rd (Config.freeWord s.free) with free := s.free + 1 } := by
  simp only [execute, actFcvtWS, Act.run, Event.perform]
  rw [show Fp.toInt32 (s.ctx.vm.reg rs1) = none from h]
  rfl

end

/-- Settles O17: eleven instructions are of the forms with one and two sources, and FCVT.W.S goes as `toInt32` answers. -/
theorem floatResults : Obligations.FloatResults := by
  intro s rd rs1 rs2 f3 a b
  simp only [exec_eq_execute]
  refine ⟨State.execute_binary, State.execute_binary, State.execute_binary, State.execute_binary, State.execute_unary,
    State.execute_binary, State.execute_binary, State.execute_binary, State.execute_binary, State.execute_binary,
    State.execute_unary, ?_⟩
  rw [← Fp.truncInt_eq_tdiv]
  show s.execute (actFcvtWS rd rs1 rs2 f3) = _
  split
  · next hr => exact State.execute_fcvtWS_of_some ((Fp.toInt32_eq a).trans (if_pos hr))
  · next hr => exact State.execute_fcvtWS_of_none ((Fp.toInt32_eq a).trans (if_neg hr))

end Sys2Proof.Machine
end

section
/-! EBREAK (O27), and the frame of ECALL and EBREAK (O32): of the VM of the tick, EBREAK changes the halt flag, a queued
call the ring and the status, a console write the console. -/

namespace Sys2Proof.Machine

/-! ### What each changes of its VM -/

/-- Settles O27, by the meaning of EBREAK. -/
theorem ebreakResult : Obligations.EbreakResult := fun _ => rfl

/-- Where EBREAK completes it leaves its VM but for the halt flag and what its unit records, and draws nothing. -/
theorem exec_ebreak_next {s t : State} (h : exec .ebreak s = .next t) :
    t.free = s.free ∧ ∃ u x, t.vm = ({ s.vm with tick := { s.vm.tick with haltFlag := true } } : VM).setUnit u x := by
  rw [ebreakResult s] at h
  cases h
  exact ⟨rfl, s.setNext_withVm_vm _ _ _⟩

/-- A queued call leaves its VM but for the ring, its counter, the status and what its unit records, and draws nothing. -/
theorem exec_ecall_queued_next {s t : State} (h17 : s.reg 17#5 ≠ 64#32) (h : exec .ecall s = .next t) :
    t.free = s.free ∧ ∃ ctr ring status u x,
      t.vm = ({ s.vm with ringCtr := ctr, ring := ring, vmStatus := status } : VM).setUnit u x := by
  obtain ⟨t', ht', hs, -⟩ := ecallQueues s h17
  rw [ht'] at h
  cases h
  subst hs
  exact ⟨rfl, _, _, _, s.setNext_withVm_vm _ _ _⟩

/-- A console write leaves its VM but for the console and what its unit records: it appends bytes, or, with another
descriptor than 1, none. -/
theorem exec_ecall_console_next {s t : State} (h17 : s.reg 17#5 = 64#32) (h : exec .ecall s = .next t) :
    ∃ console len u x, t.vm = ({ s.vm with console := console, consoleLen := len } : VM).setUnit u x := by
  obtain ⟨bytes, u, x, hvm⟩ : ∃ bytes u x, t.vm = (s.vm.appendAll s.cfg bytes).setUnit u x := by
    by_cases h10 : s.reg 10#5 = 1#32
    · by_cases hok : ∀ k < (s.reg 12#5).toNat,
          consoleDraws s.cfg (s.reg 11#5) k = true ∨ consoleAddr (s.reg 11#5) k < s.cfg.memSize
      · rw [exec_ecall_appends h17 h10 hok] at h
        cases h
        exact ⟨_, s.setNext_withVm_vm _ _ _⟩
      · simp only [not_forall, not_or, Bool.not_eq_true, Nat.not_lt, exists_prop] at hok
        have hrefused := (ecall_copy_run (c := s.ctx) (pc := s.ia) h17 h10).trans (copyToConsole_refused hok)
        cases (State.execute_of_error (m := meaningOf .ecall) hrefused).symm.trans h
    · have hnothing := ecall_nothing_run (cfg := s.cfg) (c := s.ctx) (pc := s.ia) h17 h10
      cases (State.execute_of_ok (m := meaningOf .ecall) hnothing).symm.trans h
      exact ⟨[], s.setNext_withVm_vm _ _ _⟩
  exact ⟨_, _, u, x, hvm.trans (congrArg (VM.setUnit · u x) (s.vm.appendAll_eq s.cfg bytes))⟩

/-! ### The frame -/

/-- Settles O32, from what each changes of its VM and what every instruction leaves. -/
theorem systemFrame : Obligations.SystemFrame := by
  refine fun s t => ⟨fun h => ⟨exec_sameOutside h, ?_⟩, fun h => ⟨exec_sameOutside h, ?_⟩⟩
  · by_cases h17 : s.reg 17#5 = 64#32
    · obtain ⟨console, len, u, x, hvm⟩ := exec_ecall_console_next h17 h
      exact ⟨fun a => congrArg (·.mem.get a) hvm, congrArg (·.pixels) hvm, congrArg (·.tick.haltFlag) hvm,
        fun _ => ⟨congrArg (·.ring) hvm, congrArg (·.ringCtr) hvm, congrArg (·.vmStatus) hvm⟩, fun hn => absurd h17 hn⟩
    · obtain ⟨hfree, ctr, ring, status, u, x, hvm⟩ := exec_ecall_queued_next h17 h
      exact ⟨fun a => congrArg (·.mem.get a) hvm, congrArg (·.pixels) hvm, congrArg (·.tick.haltFlag) hvm,
        fun he => absurd he h17, fun _ => ⟨congrArg (·.console) hvm, congrArg (·.consoleLen) hvm, hfree⟩⟩
  · obtain ⟨hfree, u, x, hvm⟩ := exec_ebreak_next h
    exact ⟨fun a => congrArg (·.mem.get a) hvm, congrArg (·.pixels) hvm, hfree, congrArg (·.console) hvm,
      congrArg (·.consoleLen) hvm, congrArg (·.ring) hvm, congrArg (·.ringCtr) hvm, congrArg (·.vmStatus) hvm⟩

end Sys2Proof.Machine
end

section
/-! What an iteration of the only unit leaves of the scheduler's state (R303 to R313, R320). -/

namespace Sys2Proof.Machine

/-- R303, where the test succeeds. -/
theorem VM.mayBegin_iff {vm : VM} : vm.mayBegin = true ↔ vm.tick.haltFlag = false ∧ vm.tick.abortFlag = false ∧
    vm.vmStatus = .running ∧ vm.tick.executed < vm.tick.budget.toNat := by
  simp only [VM.mayBegin, Bool.and_eq_true, Bool.not_eq_true', decide_eq_true_eq, and_assoc]

/-- The end of an iteration may abort the tick and sends the unit to the top of its loop or out of it; the rest of the
scheduler's state is as it was (R308, R312). -/
theorem VM.endIteration_tick (vm : VM) (u : Nat) : (vm.endIteration u).tick = { vm.tick with
    abortFlag := vm.tick.abortFlag || vm.guardFires
    units := vm.tick.units.set u { vm.unit u with phase := vm.endPhase u } } := by
  rw [VM.endIteration_eq_goto]; rfl

/-- What follows an instruction in its iteration counts it, and ends the iteration (R309 to R312). -/
theorem VM.finish_tick (cfg : Config) (vm : VM) (u : Nat) : ∃ y : ExecUnit,
    y.phase = (if guardFactor * vm.tick.budget.toNat < vm.tick.executed + 1 ∨ (vm.unit u).stop = true
      then .left else .top) ∧
    (vm.finish cfg u).tick = { vm.tick with
      executed := vm.tick.executed + 1
      abortFlag := vm.tick.abortFlag || decide (guardFactor * vm.tick.budget.toNat < vm.tick.executed + 1)
      units := vm.tick.units.set u y } := by
  obtain ⟨vm', hfin, htick⟩ : ∃ vm' : VM, vm.finish cfg u = vm'.endIteration u ∧
      vm'.tick = { vm.tick with executed := vm.tick.executed + 1 } :=
    ⟨_, rfl, congrArg (fun k : Tick => { k with executed := k.executed + 1 }) (vm.commitNext_tick cfg u)⟩
  refine ⟨{ vm'.unit u with phase := vm'.endPhase u }, ?_, ?_⟩
  · have hunit : vm'.unit u = vm.unit u := VM.unit_congr (by rw [htick]) u
    have hguard : vm'.guardFires = true ↔ guardFactor * vm.tick.budget.toNat < vm.tick.executed + 1 := by
      rw [VM.guardFires, htick]; exact decide_eq_true_iff
    rw [← hunit]
    exact if_congr (or_congr_left hguard) rfl rfl
  · rw [hfin, VM.endIteration_tick, VM.guardFires, htick]

/-- A step of a single-unit tick ends the tick, or is an iteration of the unit: it leaves at the top or at HALT_PC, or it
executes the instruction at the PC. -/
theorem step_single_cases {s t : State} (hw : s.Wf) (hr : s.running = true) (hn : s.cfg.nUnits = 1)
    (h : step s = .next t) :
    (t = s.endTick ∧ ∀ x ∈ s.vm.tick.units, x.phase = .left) ∨
    (s.vm.mayBegin = false ∧ t = s.withVm (s.vm.goto 0 .left)) ∨
    t = s.withVm (s.vm.raiseHalt.goto 0 .left) ∨
    ∃ i r, s.AtFetch ∧ exec i s.claim = .next r ∧ t = r.finish := by
  rcases step_cases h with ⟨hf, -⟩ | ⟨hf, -⟩ | ⟨-, rfl, ho⟩ | ⟨-, -, hu, hi⟩ | ⟨-, hm, -⟩
  · rw [hr] at hf; cases hf
  · rw [hr] at hf; cases hf
  · exact .inl ⟨rfl, units_left_of_tick_over hw hr ho⟩
  · rcases iterate_cases hi with ⟨hb, rfl⟩ | ⟨-, -, -, rfl⟩ | ⟨hb, hl, hpc, w, r, -, hx, rfl⟩
    · have hl : s.vm.tick.lock = false := ((hw.vms s.cur).single hn).1
      exact .inr (.inl ⟨hb.resolve_right (by simp [hl]), rfl⟩)
    · exact .inr (.inr (.inl rfl))
    · exact .inr (.inr (.inr ⟨_, r, ⟨hr, hn, hu, hb, hl, hpc, (step_legalPc hr h).resolve_right hpc⟩, hx, rfl⟩))
  · exact absurd hn hm

/-- What an iteration that executes an instruction leaves of the scheduler's state: the instruction is counted, and the unit
is at the top of its loop unless the guard or the instruction takes it out (R308 to R312). -/
theorem State.AtFetch.finish_tick {s r : State} {i : Instr} (h : s.AtFetch) (hx : exec i s.claim = .next r) :
    ∃ y : ExecUnit,
      y.phase = (if guardFactor * s.vm.tick.budget.toNat < s.vm.tick.executed + 1 ∨ r.unit.stop = true
        then .left else .top) ∧
      r.finish.vm.tick = { s.vm.tick with
        lock := false
        turn := 0
        haltFlag := r.vm.tick.haltFlag
        executed := s.vm.tick.executed + 1
        abortFlag := s.vm.tick.abortFlag || decide (guardFactor * s.vm.tick.budget.toNat < s.vm.tick.executed + 1)
        units := s.vm.tick.units.set 0 y } := by
  obtain ⟨-, htick, -, -, hunit⟩ := h.exec_claim hx
  obtain ⟨-, z, hz⟩ := exec_units hx
  have hclaim : s.claim.vm = (s.vm.setTurn 0).claim 0 := State.withVm_vm ..
  have hunits : ∀ y, r.vm.tick.units.set 0 y = s.vm.tick.units.set 0 y := fun y => by
    rw [hz, hclaim]
    exact (List.set_set ..).trans (List.set_set ..)
  obtain ⟨y, hy, hfin⟩ := r.vm.finish_tick r.cfg 0
  refine ⟨y, ?_, ?_⟩
  · rw [hunit, hy, htick]
  · rw [State.finish, State.withVm_vm, hfin, hunits, htick]

end Sys2Proof.Machine
end

section
/-! The budget bounds the instructions of a tick (O47): a unit begins an iteration only below the budget, and each unit has at
most one instruction in flight. -/

namespace Sys2Proof.Machine

/-- The bound of R322 for one VM of a machine with `n` units. -/
def VM.WithinBudget (n : Nat) (vm : VM) : Prop :=
  vm.tick.executed + vm.countUnits Phase.pending ≤ vm.tick.budget.toNat + (n - 1)

/-- No instruction is in flight and at most the budget is executed. -/
theorem VM.withinBudget_of_idle {n : Nat} {vm : VM} (hu : ∀ x ∈ vm.tick.units, x.phase.pending = false)
    (he : vm.tick.executed ≤ vm.tick.budget.toNat + (n - 1)) : vm.WithinBudget n := by
  have hz : vm.countUnits Phase.pending = 0 := by simpa [VM.countUnits, List.countP_eq_zero] using hu
  rw [VM.WithinBudget, hz]
  exact he

/-- Executed and in flight together do not grow when one unit is replaced. -/
theorem VM.WithinBudget.setUnit {n : Nat} {vm vm' : VM} {u : Nat} {y : ExecUnit} (h : vm.WithinBudget n)
    (hu : u < vm.tick.units.length) (hunits : vm'.tick.units = vm.tick.units)
    (hb : vm'.tick.budget = vm.tick.budget)
    (he : vm'.tick.executed + (if y.phase.pending then 1 else 0) ≤
      vm.tick.executed + (if (vm.unit u).phase.pending then 1 else 0)) : (vm'.setUnit u y).WithinBudget n := by
  have hcount := vm'.countUnits_setUnit (hunits ▸ hu) y Phase.pending
  rw [VM.unit_congr hunits, VM.countUnits_congr hunits] at hcount
  unfold VM.WithinBudget at h ⊢
  rw [VM.setUnit_executed, VM.setUnit_budget, hb]
  omega

theorem VM.executed_lt_of_mayBegin {vm : VM} (h : vm.mayBegin = true) : vm.tick.executed < vm.tick.budget.toNat := by
  obtain ⟨-, -, -, hlt⟩ := VM.mayBegin_iff.1 h
  exact hlt

/-- R303: where a unit begins, the budget is not used, and no more than all the units have an instruction in flight. -/
theorem VM.withinBudget_of_mayBegin {n : Nat} {vm : VM} (hlen : vm.tick.units.length ≤ n) (hb : vm.mayBegin = true)
    {u : Nat} (y : ExecUnit) : (vm.setUnit u y).WithinBudget n := by
  have hlt := VM.executed_lt_of_mayBegin hb
  have hcount : (vm.setUnit u y).countUnits Phase.pending ≤ n :=
    List.countP_le_length.trans (List.length_set.trans_le hlen)
  unfold VM.WithinBudget
  rw [VM.setUnit_executed, VM.setUnit_budget]
  omega

/-- Each line of a unit's loop: the test at the top is made below the budget, the count takes the instruction out of flight,
and every other line counts nothing and begins nothing (R303, R310). -/
theorem UnitMove.withinBudget {cfg : Config} {vm vm' : VM} {u : Nat} (hm : UnitMove cfg vm (vm.unit u) u vm')
    (hu : u < vm.tick.units.length) (hlen : vm.tick.units.length ≤ cfg.nUnits) (h : vm.WithinBudget cfg.nUnits) :
    vm'.WithinBudget cfg.nUnits := by
  cases hm
  case begins hp hb => exact VM.withinBudget_of_mayBegin hlen hb _
  case counts hp => exact h.setUnit hu rfl rfl (by simp [hp, Phase.pending])
  case completes hp hc hr ha | advances hp hc hr ha =>
    subst hc
    have hk := accessEvent_kept ha
    exact h.setUnit hu hk.units (by rw [hk.tick]) (by rw [hk.tick])
  case commits hp =>
    have ht := vm.commitNext_tick cfg u
    exact h.setUnit hu (by rw [ht]) (by rw [ht]) (by rw [ht, hp]; exact le_rfl)
  case waits hp hl hr => exact h.setUnit hu rfl rfl le_rfl
  case gone => exact h
  all_goals exact h.setUnit hu rfl rfl (by simp [Phase.pending, *])

theorem HostMove.withinBudget {cfg : Config} {n : Nat} {vm vm' : VM} (h : vm.WithinBudget n) (hm : HostMove cfg vm vm') :
    vm'.WithinBudget n := by
  cases hm
  case creates => exact Nat.zero_le _
  case starts =>
    exact VM.withinBudget_of_idle (fun x hx => by rw [List.eq_of_mem_replicate hx]; rfl) (Nat.zero_le _)
  all_goals exact h

/-- In single-unit mode no instruction is in flight between two steps (R320). -/
theorem VM.Wf.not_pending {cfg : Config} {vm : VM} (h : vm.Wf cfg) (hn : cfg.nUnits = 1) :
    ∀ x ∈ vm.tick.units, x.phase.pending = false := fun x hx => by
  rcases (h.single hn).2 x hx with hp | hp <;> rw [hp] <;> rfl

/-- Each step of a tick: the only unit begins its iteration below the budget and counts one instruction (R303, R310). -/
theorem TickMove.withinBudget {cfg : Config} {vm vm' : VM} (hm : TickMove cfg vm vm') (hw : vm.Wf cfg) (hw' : vm'.Wf cfg)
    (h : vm.WithinBudget cfg.nUnits) : vm'.WithinBudget cfg.nUnits := by
  have hexec : vm.tick.executed ≤ vm.tick.budget.toNat + (cfg.nUnits - 1) := (Nat.le_add_right ..).trans h
  cases hm
  case ends => exact VM.withinBudget_of_idle (by simp [VM.endTick]) hexec
  case leaves hn | halts hn => exact VM.withinBudget_of_idle (hw'.not_pending hn) hexec
  case runs w c d hn hu hb hl hpc hfetch hc hd =>
    refine VM.withinBudget_of_idle (hw'.not_pending hn) ?_
    obtain ⟨y, -, ht⟩ :=
      (d.ctx.vm.setUnit 0 { d.ctx.vm.unit 0 with next := d.next, stop := d.stop }).finish_tick cfg 0
    have hlt := VM.executed_lt_of_mayBegin hb
    rw [ht, VM.setUnit_executed, VM.setUnit_budget, (Act.run_kept hd).tick, hc]
    exact Nat.le_add_right_of_le hlt
  case moves u turn vm' hn hu hm => exact hm.withinBudget hu hw.unitCount h

/-- Settles O47: the host leaves a VM's counts or clears them, and each move of a tick keeps the bound. -/
theorem budgetIsABound : Obligations.BudgetIsABound := by
  intro s t hw hs h v
  have hw' := (stepKeepsWellFormedness s t hw h).vms v
  rw [(step_cfg_regions h).1] at hw' ⊢
  rcases step_vm h v with ⟨-, hm⟩ | ⟨-, -, he⟩ | ⟨-, -, hm⟩
  · exact hm.withinBudget (hs v)
  · rw [he]; exact hs v
  · exact hm.withinBudget (hw.vms v) hw' (hs v)

end Sys2Proof.Machine
end

section
/-! Claims (O48): in multi-unit mode a claim takes the PC and moves it by 4, nothing else moves it, and so the addresses being
executed are different ones of resume_pc, resume_pc + 4, and so on. -/

namespace Sys2Proof.Machine

/-! ### The addresses being executed -/

/-- Different addresses among the first `n` from `start` on, 4 apart. -/
def DistinctClaims (start : Word) (n : Nat) (l : List Word) : Prop :=
  l.Nodup ∧ ∀ a ∈ l, ∃ j < n, a = start + 4#32 * BitVec.ofNat 32 j

theorem DistinctClaims.perm {start : Word} {n : Nat} {l l' : List Word} (h : DistinctClaims start n l) (hp : l.Perm l') :
    DistinctClaims start n l' :=
  ⟨hp.nodup_iff.1 h.1, fun a ha => h.2 a (hp.mem_iff.2 ha)⟩

theorem DistinctClaims.sublist {start : Word} {n : Nat} {l l' : List Word} (h : DistinctClaims start n l)
    (hs : l'.Sublist l) : DistinctClaims start n l' :=
  ⟨h.1.sublist hs, fun a ha => h.2 a (hs.subset ha)⟩

/-- Two of the first 2^30 addresses are different. -/
theorem claim_address_injective {start : Word} {i j : Nat} (hi : i < 2 ^ 30) (hj : j < 2 ^ 30)
    (h : start + 4#32 * BitVec.ofNat 32 i = start + 4#32 * BitVec.ofNat 32 j) : i = j := by
  have h' := congrArg BitVec.toNat (BitVec.add_right_inj start |>.1 h)
  simp only [BitVec.toNat_mul, BitVec.toNat_ofNat] at h'
  omega

/-- The next address, claimed. -/
theorem DistinctClaims.cons {start : Word} {n : Nat} {l : List Word} (h : DistinctClaims start n l) (hn : n < 2 ^ 30) :
    DistinctClaims start (n + 1) ((start + 4#32 * BitVec.ofNat 32 n) :: l) := by
  refine ⟨List.nodup_cons.2 ⟨fun hm => ?_, h.1⟩, fun a ha => ?_⟩
  · obtain ⟨j, hj, he⟩ := h.2 _ hm
    exact hj.ne' (claim_address_injective hn (hj.trans hn) he)
  · rcases List.mem_cons.1 ha with rfl | ha
    · exact ⟨n, n.lt_succ_self, rfl⟩
    · obtain ⟨j, hj, he⟩ := h.2 a ha
      exact ⟨j, hj.trans n.lt_succ_self, he⟩

/-- The address the unit executes, if it executes one, as a list. -/
def ExecUnit.addresses (x : ExecUnit) : List Word := if x.phase.executing then [x.ia] else []

/-- The addresses these units execute. -/
def addressesOf (l : List ExecUnit) : List Word := (l.filter fun x => x.phase.executing).map ExecUnit.ia

theorem addressesOf_cons (x : ExecUnit) (l : List ExecUnit) : addressesOf (x :: l) = x.addresses ++ addressesOf l := by
  simp only [addressesOf, ExecUnit.addresses, List.filter_cons]
  split <;> rfl

theorem addressesOf_perm_getElem {l : List ExecUnit} {u : Nat} (h : u < l.length) :
    (addressesOf l).Perm (l[u].addresses ++ addressesOf (l.eraseIdx u)) :=
  addressesOf_cons _ _ ▸ ((List.getElem_cons_eraseIdx_perm h).symm.filter _).map _

/-- The addresses of a VM's units are those of one unit and of the others, whatever the one is replaced by. -/
theorem VM.claimedAddresses_setUnit (vm : VM) {u : Nat} (hu : u < vm.tick.units.length) : ∃ others,
    vm.claimedAddresses.Perm ((vm.unit u).addresses ++ others) ∧
    ∀ y, (vm.setUnit u y).claimedAddresses.Perm (y.addresses ++ others) := by
  refine ⟨addressesOf (vm.tick.units.eraseIdx u), ?_, fun y => ?_⟩
  · have hperm := addressesOf_perm_getElem hu
    rwa [show vm.tick.units[u] = vm.unit u by simp [VM.unit, hu]] at hperm
  · have hperm := addressesOf_perm_getElem (l := vm.tick.units.set u y) (List.length_set.symm ▸ hu)
    rwa [List.getElem_set_self, List.eraseIdx_set_eq] at hperm

/-! ### One unit put in -/

/-- A line of the loop that makes no claim: the PC is left, the claims are as many, and the unit executes the address it
executed or none. -/
theorem VM.ClaimsInOrder.setUnit {vm vm' : VM} {u : Nat} {y : ExecUnit} (h : vm.ClaimsInOrder)
    (hu : u < vm.tick.units.length) (hunits : vm'.tick.units = vm.tick.units) (hcpu : vm'.cpu = vm.cpu)
    (hresume : vm'.tick.resumePc = vm.tick.resumePc)
    (hclaims : vm'.tick.executed + (if y.phase.claimed then 1 else 0) =
      vm.tick.executed + (if (vm.unit u).phase.claimed then 1 else 0))
    (hy : y.phase.executing = true → (vm.unit u).phase.executing = true ∧ y.ia = (vm.unit u).ia) :
    (vm'.setUnit u y).ClaimsInOrder := by
  have hcount := vm'.countUnits_setUnit (hunits ▸ hu) y Phase.claimed
  rw [VM.unit_congr hunits, VM.countUnits_congr hunits] at hcount
  have hsame : (vm'.setUnit u y).claims = vm.claims := by
    unfold VM.claims
    rw [VM.setUnit_executed]
    omega
  obtain ⟨others, hold, hnew⟩ := vm.claimedAddresses_setUnit hu
  have hsub : (y.addresses ++ others).Sublist ((vm.unit u).addresses ++ others) := by
    refine List.Sublist.append_right ?_ _
    unfold ExecUnit.addresses
    split
    · next he => rw [if_pos (hy he).1, (hy he).2]
    · exact List.nil_sublist _
  have hlist : (vm'.setUnit u y).claimedAddresses = (vm.setUnit u y).claimedAddresses := by
    simp only [VM.claimedAddresses, VM.setUnit_units, hunits]
  refine ⟨?_, fun hlt => ?_⟩
  · rw [hsame, VM.setUnit_cpu, VM.setUnit_resumePc, hcpu, hresume]
    exact h.pc
  · rw [hsame, VM.setUnit_resumePc, hresume, hlist]
    exact ((DistinctClaims.perm (h.distinct (hsame ▸ hlt)) hold).sublist hsub).perm (hnew y).symm

/-- R306: a claim takes the PC and moves it by 4. -/
theorem VM.ClaimsInOrder.claim {vm vm' : VM} {u : Nat} {y : ExecUnit} (h : vm.ClaimsInOrder)
    (hu : u < vm.tick.units.length) (hx : (vm.unit u).phase = .locked) (hy : y.phase = .fetch) (hia : y.ia = vm.cpu.pc)
    (hunits : vm'.tick.units = vm.tick.units) (hpc : vm'.cpu.pc = vm.cpu.pc + 4#32)
    (hresume : vm'.tick.resumePc = vm.tick.resumePc) (hexec : vm'.tick.executed = vm.tick.executed) :
    (vm'.setUnit u y).ClaimsInOrder := by
  have hcount := vm'.countUnits_setUnit (hunits ▸ hu) y Phase.claimed
  rw [VM.unit_congr hunits, VM.countUnits_congr hunits, hx, hy] at hcount
  have hmore : (vm'.setUnit u y).claims = vm.claims + 1 := by
    unfold VM.claims
    rw [VM.setUnit_executed, hexec]
    simp only [Phase.claimed, Bool.false_eq_true, if_false, if_true] at hcount
    omega
  obtain ⟨others, hold, hnew⟩ := vm.claimedAddresses_setUnit hu
  rw [show (vm.unit u).addresses = [] by rw [ExecUnit.addresses, hx]; rfl] at hold
  have hlist : (vm'.setUnit u y).claimedAddresses = (vm.setUnit u y).claimedAddresses := by
    simp only [VM.claimedAddresses, VM.setUnit_units, hunits]
  refine ⟨?_, fun hlt => ?_⟩
  · rw [hmore, VM.setUnit_cpu, VM.setUnit_resumePc, hpc, hresume, h.pc, BitVec.add_assoc]
    congr 1
    rw [BitVec.ofNat_add, BitVec.mul_add]; rfl
  · rw [hmore] at hlt
    have hclaim : y.addresses = [vm.tick.resumePc + 4#32 * BitVec.ofNat 32 vm.claims] := by
      rw [ExecUnit.addresses, hy, hia, h.pc]; rfl
    rw [hmore, VM.setUnit_resumePc, hresume, hlist]
    have hdistinct : DistinctClaims vm.tick.resumePc vm.claims vm.claimedAddresses := h.distinct (by omega)
    exact ((hdistinct.perm hold).cons (by omega)).perm (hclaim ▸ hnew y).symm

/-! ### Every step -/

/-- Each line of a unit's loop in multi-unit mode (R306, R309). -/
theorem UnitMove.claimsInOrder {cfg : Config} (hn : cfg.nUnits ≠ 1) {vm vm' : VM} {u : Nat}
    (hm : UnitMove cfg vm (vm.unit u) u vm') (hu : u < vm.tick.units.length) (h : vm.ClaimsInOrder) :
    vm'.ClaimsInOrder := by
  cases hm
  case claims hp hpc => exact h.claim hu hp rfl rfl rfl rfl rfl rfl
  case completes hp hc hr ha | advances hp hc hr ha =>
    subst hc
    have hk := accessEvent_kept ha
    exact h.setUnit hu hk.units hk.cpu (by rw [hk.tick]) (by rw [hk.tick]) fun he => ⟨he, rfl⟩
  case commits hp =>
    rw [VM.commitNext_of_multi hn]
    exact h.setUnit hu rfl rfl rfl (by rw [hp]; rfl) fun _ => ⟨by rw [hp]; rfl, rfl⟩
  case waits hp hl hr => exact h.setUnit hu rfl rfl rfl rfl fun he => ⟨he, rfl⟩
  case counts hp => exact h.setUnit hu rfl rfl rfl (by rw [hp]; rfl) fun _ => ⟨by rw [hp]; rfl, rfl⟩
  case gone => exact h
  all_goals
    exact h.setUnit hu rfl rfl rfl (by simp [Phase.claimed, *]) fun he => ⟨by simp_all [Phase.executing], rfl⟩

/-- A VM whose units execute nothing: as many claims as instructions counted, and no address. -/
theorem VM.claimsInOrder_of_idle {vm : VM} (hu : ∀ x ∈ vm.tick.units, x.phase = .top ∨ x.phase = .left)
    (hpc : vm.cpu.pc = vm.tick.resumePc + 4#32 * BitVec.ofNat 32 vm.tick.executed) : vm.ClaimsInOrder := by
  have hclaimed : vm.countUnits Phase.claimed = 0 :=
    List.countP_eq_zero.2 fun x hx => by rcases hu x hx with hp | hp <;> simp [hp, Phase.claimed]
  have hnone : vm.claimedAddresses = [] := by
    rw [VM.claimedAddresses, List.map_eq_nil_iff, List.filter_eq_nil_iff]
    exact fun x hx => by rcases hu x hx with hp | hp <;> simp [hp, Phase.executing]
  exact ⟨by rw [VM.claims, hclaimed]; exact hpc, fun _ => by simp [hnone]⟩

theorem HostMove.claimsInOrder {cfg : Config} {vm vm' : VM} (h : vm.ClaimsInOrder) (hm : HostMove cfg vm vm') :
    vm'.ClaimsInOrder := by
  cases hm
  case creates => exact VM.reset_claimsInOrder _
  case starts budget pc hrun hpc =>
    exact VM.claimsInOrder_of_idle (fun x hx => by rw [List.eq_of_mem_replicate hx]; exact .inl rfl)
      (by simp [VM.startTick])
  all_goals exact ⟨h.pc, h.distinct⟩

/-- R319: when every unit has left, the PC that is published is resume_pc plus 4 for every instruction counted. -/
theorem VM.ClaimsInOrder.endTick {vm : VM} (h : vm.ClaimsInOrder) (hu : ∀ x ∈ vm.tick.units, x.phase = .left) :
    vm.endTick.ClaimsInOrder := by
  have hclaimed : vm.countUnits Phase.claimed = 0 :=
    List.countP_eq_zero.2 fun x hx => by simp [hu x hx, Phase.claimed]
  refine VM.claimsInOrder_of_idle (fun x hx => by cases hx) ?_
  have hpc := h.pc
  rwa [VM.claims, hclaimed] at hpc

/-- A step of the tick that leaves the claims of its VM in order leaves every VM's in order. -/
theorem State.ClaimsInOrder.withVm {s t : State} (h : s.ClaimsInOrder) {vm : VM} (ht : t.vms = (s.withVm vm).vms)
    (hvm : vm.ClaimsInOrder) : t.ClaimsInOrder := by
  intro v
  rw [ht, State.withVm_vms]
  split
  · exact hvm
  · exact h v

/-- Settles O48, by the cases of a step: the host leaves a VM's claims or begins them anew, a tick ends with every claim
counted, and each line of a unit's loop keeps them in order. -/
theorem claimsAreContiguousAndDistinct : Obligations.ClaimsAreContiguousAndDistinct := by
  intro s t hw hn hs h
  rcases step_cases h with ⟨-, -, rfl⟩ | ⟨-, op, rest, -, ho⟩ | ⟨hr, rfl, ho⟩ | ⟨-, hone, -⟩ |
    ⟨-, -, u, c, n, hu, -, hstep, rfl⟩
  · exact hs
  · exact fun v => ((hostOp_effect ho).vms v).claimsInOrder (hs v)
  · exact hs.withVm rfl ((hs s.cur).endTick (units_left_of_tick_over hw hr ho))
  · exact absurd hone hn
  · have hc := (unitStep_move hstep).claimsInOrder hn hu (hs s.cur)
    exact hs.withVm (vm := c.vm.setTurn (Config.schedule n)) rfl ⟨hc.pc, hc.distinct⟩

end Sys2Proof.Machine
end

section
/-! Which instructions stop their unit (R308): EBREAK and a queued ECALL, each right after the access that raises the halt flag
or suspends the VM. -/

namespace Sys2Proof.Machine

/-! ### Accesses that never stop their unit -/

/-- However these accesses are answered, they do not stop their unit. -/
def Act.NeverStops : Act → Prop
  | .ret _ stop => stop = false
  | .op _ k => ∀ v, (k v).NeverStops

theorem fallThrough_neverStops (pc : Word) : (fallThrough pc).NeverStops := rfl

theorem writeBack_neverStops (rd : RegIx) (v pc : Word) : (writeBack rd v pc).NeverStops := fun _ => rfl

theorem readBoth_neverStops {r q : RegIx} {k : Word → Word → Act} (hk : ∀ a b, (k a b).NeverStops) :
    (readBoth r q k).NeverStops := fun n => by
  beta_reduce
  split
  · exact fun b a => hk a b
  · exact fun a b => hk a b

theorem copyToConsole_neverStops {k : Act} (hk : k.NeverStops) (n : Nat) (ptr : Word) :
    (copyToConsole k n ptr).NeverStops := by
  induction n generalizing ptr with
  | zero => exact hk
  | succ n ih => exact fun _ _ => ih _

theorem consoleWrite_neverStops (pc : Word) : (consoleWrite pc).NeverStops := fun fd ptr len => by
  split
  · exact copyToConsole_neverStops (fallThrough_neverStops pc) len.toNat ptr
  · exact fallThrough_neverStops pc

/-- R308: no instruction but ECALL and EBREAK stops its unit. -/
theorem meaningOf_neverStops {i : Instr} (hecall : i ≠ .ecall) (hebreak : i ≠ .ebreak) (cfg : Config) (pc : Word) :
    (meaningOf i cfg pc).NeverStops := by
  cases i
  case ecall => exact absurd rfl hecall
  case ebreak => exact absurd rfl hebreak
  case fence | fenceI | csrrw | csrrs | csrrc | csrrwi | csrrsi | csrrci | unknown => exact fallThrough_neverStops pc
  case lui | auipc => exact writeBack_neverStops _ _ _
  case jal => exact fun _ => rfl
  case jalr => exact fun _ _ => rfl
  case beq | bne | blt | bge | bltu | bgeu => exact readBoth_neverStops fun _ _ => rfl
  case lb | lh | lw | lbu | lhu => exact fun _ _ => writeBack_neverStops _ _ _
  case sb | sh | sw => exact readBoth_neverStops fun _ _ _ => fallThrough_neverStops pc
  case addi | slti | sltiu | xori | ori | andi | slli | srli | srai | fsqrt | fcvtSW =>
    exact fun _ => writeBack_neverStops _ _ _
  case add | sub | sll | slt | sltu | xor | srl | sra | or | and | fadd | fsub | fmul | fdiv | fmin | fmax | feq | flt |
    fle => exact readBoth_neverStops fun _ _ => writeBack_neverStops _ _ _
  case fcvtWS =>
    intro a
    show Act.NeverStops (match Fp.toInt32 a with | some v => _ | none => _)
    split
    · exact writeBack_neverStops _ _ _
    · exact fun _ => writeBack_neverStops _ _ _

theorem Act.NeverStops.run {cfg : Config} {a : Act} (h : a.NeverStops) {c : Ctx} {d : Done}
    (hr : a.run cfg c = .ok d) : d.stop = false := by
  induction a generalizing c with
  | ret next stop => simp only [Act.run] at hr; cases hr; exact h
  | op e k ih =>
    simp only [Act.run] at hr
    split at hr
    · next v c' hp => exact ih v (h v) hr
    · cases hr

/-! ### Where an instruction stops its unit -/

/-- The access raises the halt flag or suspends the VM (R283, R285). -/
def Event.stopsTick : Event → Bool
  | .setWaiting | .raiseHalt => true
  | _ => false

/-- However these accesses are answered, they stop their unit only right after an access that stops the tick; `before` is
whether the access before them did. -/
def Act.StopsAfter (before : Bool) : Act → Prop
  | .ret _ stop => stop = true → before = true
  | .op e k => ∀ v, (k v).StopsAfter e.stopsTick

theorem Act.NeverStops.stopsAfter {a : Act} (h : a.NeverStops) (before : Bool) : a.StopsAfter before := by
  induction a generalizing before with
  | ret next stop => exact fun hs => by cases h.symm.trans hs
  | op e k ih => exact fun v => ih v (h v) _

theorem fillSlot_stopsAfter {ctr : Word} {k : Act} (hk : ∀ before, k.StopsAfter before) (fuel : Nat)
    (todo : List SlotTask) (before : Bool) : (fillSlot ctr k fuel todo).StopsAfter before := by
  induction fuel generalizing todo before with
  | zero => exact hk before
  | succ fuel ih =>
    rw [fillSlot]
    split
    · exact hk before
    · exact fun _ _ => ih _ _

/-- R283: a queued call stops its unit right after it suspends the VM. -/
theorem queueSyscall_stopsAfter (n pc : Word) (before : Bool) : (queueSyscall n pc).StopsAfter before :=
  fun _ => fillSlot_stopsAfter (k := .op .setWaiting fun _ => .ret (pc + 4#32) true) (fun _ _ _ => rfl) _ _ _

theorem meaningOf_stopsAfter (i : Instr) (cfg : Config) (pc : Word) : (meaningOf i cfg pc).StopsAfter false := by
  by_cases hecall : i = .ecall
  · subst hecall
    intro n
    show Act.StopsAfter _ (if n = 64#32 then consoleWrite pc else queueSyscall n pc)
    split
    · exact (consoleWrite_neverStops pc).stopsAfter _
    · exact queueSyscall_stopsAfter n pc _
  by_cases hebreak : i = .ebreak
  · subst hebreak
    exact fun _ _ => rfl
  · exact (meaningOf_neverStops hecall hebreak cfg pc).stopsAfter false

/-- What is left of such accesses once some are answered is such too. -/
theorem Act.StopsAfter.after {a : Act} {before : Bool} (h : a.StopsAfter before) (l : List Word) :
    ∃ before', (a.after l).StopsAfter before' := by
  induction l generalizing a before with
  | nil => exact ⟨before, by rwa [Act.after]⟩
  | cons v l ih =>
    cases a with
    | ret next stop => exact ⟨before, h⟩
    | op e k => exact ih (h v)

/-! ### What has happened where a unit stops -/

/-- An access leaves a stopped tick stopped. -/
theorem Ctx.Kept.stopped {c c' : Ctx} (h : c.Kept c') (hs : c.vm.stopped) : c'.vm.stopped := by
  rcases hs with hs | hs
  · exact .inl (h.halt hs)
  · exact .inr fun hr => hs (h.running hr)

theorem Event.perform_stopped {cfg : Config} {e : Event} {c c' : Ctx} {v : Word} (he : e.stopsTick = true)
    (h : e.perform cfg c = .ok (v, c')) : c'.vm.stopped := by
  cases e
  case setWaiting => cases h; exact .inr (by simp)
  case raiseHalt => cases h; exact .inl rfl
  all_goals cases he

/-- Run to their end, such accesses stop their unit only in a stopped tick. -/
theorem Act.StopsAfter.run {cfg : Config} {a : Act} {before : Bool} (h : a.StopsAfter before) {c : Ctx} {d : Done}
    (hc : before = true → c.vm.stopped) (hr : a.run cfg c = .ok d) (hs : d.stop = true) : d.ctx.vm.stopped := by
  induction a generalizing c before with
  | ret next stop => simp only [Act.run] at hr; cases hr; exact hc (h hs)
  | op e k ih =>
    simp only [Act.run] at hr
    split at hr
    · next v c' hp => exact ih v (h v) (fun he => Event.perform_stopped he hp) hr
    · cases hr

/-- What a completed instruction leaves of its VM, and what it records in the unit that moves. -/
theorem exec_next_unit {i : Instr} {s t : State} (hu : s.vm.tick.turn < s.vm.tick.units.length) (h : exec i s = .next t) :
    ∃ d x, (meaningOf i s.cfg s.ia).run s.cfg s.ctx = .ok d ∧ t.vm = d.ctx.vm.setUnit s.vm.tick.turn x ∧
      t.unit.stop = d.stop := by
  obtain ⟨d, hd, rfl⟩ := exec_next h
  have hk := Act.run_kept hd
  have hturn : d.ctx.vm.tick.turn = s.vm.tick.turn := by rw [hk.tick]; rfl
  refine ⟨d, _, hd, by rw [State.setNext_vm, State.withCtx_vm, hturn], ?_⟩
  rw [State.unit, State.setNext_vm, State.withCtx_vm, VM.setUnit_turn, VM.unit_setUnit]
  rw [hturn, hk.units]
  exact hu

/-- R308: an instruction that stops its unit has raised the halt flag or suspended the VM. -/
theorem exec_stopped {i : Instr} {s t : State} (hu : s.vm.tick.turn < s.vm.tick.units.length) (h : exec i s = .next t)
    (hs : t.unit.stop = true) : t.vm.stopped := by
  obtain ⟨d, x, hd, hvm, hstop⟩ := exec_next_unit hu h
  rw [hvm]
  exact (meaningOf_stopsAfter i s.cfg s.ia).run (fun he => by cases he) hd (hstop ▸ hs)

end Sys2Proof.Machine
end

section
/-! Which instructions reach beyond registers and memory (O34). -/

namespace Sys2Proof.Machine

theorem VM.setDest_eq (vm : VM) (rd : Option RegIx) (v : Word) :
    vm.setDest rd v = { vm with mem := (vm.setDest rd v).mem } := by
  cases rd with
  | none => rfl
  | some r => show vm.setReg r v = { vm with mem := (vm.setReg r v).mem }; unfold VM.setReg; split <;> rfl

/-- R64 case 1: only a word goes to the framebuffer. -/
theorem writeKind_pixel_word {cfg : Config} {a : Nat} {n : Size} (h : writeKind cfg a n = .pixel) : n = .word := by
  unfold writeKind at h
  split at h
  · next hp => simp only [Bool.and_eq_true, decide_eq_true_eq] at hp; exact hp.1
  · repeat' split at h
    all_goals cases h

/-- A store that completes changes memory, or, a word store only, the framebuffer. -/
theorem State.execute_store_vm {s t : State} {rs2 rs1 : RegIx} {imm : BitVec 12} {n : Size}
    (h : s.execute (storeForm rs2 rs1 imm n) = .next t) :
    ∃ mem pixels u x, t.vm = ({ s.vm with mem := mem, pixels := pixels } : VM).setUnit u x ∧
      (pixels = s.vm.pixels ∨ n = .word) := by
  obtain ⟨-, u, x, ⟨-, hvm⟩ | ⟨hk, hvm⟩⟩ := execute_store_next h
  · exact ⟨_, _, u, x, hvm, .inl rfl⟩
  · exact ⟨_, _, u, x, hvm, .inr (writeKind_pixel_word hk)⟩

/-- An instruction that is neither ECALL nor EBREAK changes memory, or, SW only, the framebuffer. -/
theorem exec_vm_of_shape {i : Instr} {s t : State} (hecall : i ≠ .ecall) (hebreak : i ≠ .ebreak)
    (h : exec i s = .next t) :
    ∃ mem pixels u x, t.vm = ({ s.vm with mem := mem, pixels := pixels } : VM).setUnit u x ∧
      (pixels = s.vm.pixels ∨ ∃ rs2 rs1 imm, i = .sw rs2 rs1 imm) := by
  by_cases hi : shapeOf i = .register ∨ shapeOf i = .load
  · obtain ⟨⟨v, u, x, hvm⟩, -⟩ := exec_writesDest hi h
    exact ⟨_, _, u, x, hvm.trans (congrArg (VM.setUnit · u x) (s.vm.setDest_eq _ v)), .inl rfl⟩
  · cases i
    case ecall => exact absurd rfl hecall
    case ebreak => exact absurd rfl hebreak
    case sb | sh =>
      obtain ⟨mem, pixels, u, x, hvm, hp⟩ := State.execute_store_vm h
      exact ⟨mem, pixels, u, x, hvm, .inl (hp.resolve_right (by decide))⟩
    case sw rs2 rs1 imm =>
      obtain ⟨mem, pixels, u, x, hvm, -⟩ := State.execute_store_vm h
      exact ⟨mem, pixels, u, x, hvm, .inr ⟨rs2, rs1, imm, rfl⟩⟩
    all_goals simp [shapeOf] at hi

/-- A console write with another descriptor than 1 changes nothing of its VM but what its unit records. -/
theorem exec_ecall_nothing_next {s t : State} (h17 : s.reg 17#5 = 64#32) (h10 : s.reg 10#5 ≠ 1#32)
    (h : exec .ecall s = .next t) : ∃ u x, t.vm = s.vm.setUnit u x := by
  have hnothing := ecall_nothing_run (cfg := s.cfg) (c := s.ctx) (pc := s.ia) h17 h10
  cases (State.execute_of_ok (m := meaningOf .ecall) hnothing).symm.trans h
  exact s.setNext_withVm_vm _ _ _

/-- R308: only EBREAK and a queued ECALL stop their unit. -/
theorem exec_stop {i : Instr} {s t : State} (hu : s.vm.tick.turn < s.vm.tick.units.length) (h : exec i s = .next t)
    (hs : t.unit.stop = true) : i = .ebreak ∨ (i = .ecall ∧ s.reg 17#5 ≠ 64#32) := by
  obtain ⟨d, -, hd, -, hstop⟩ := exec_next_unit hu h
  rw [hs] at hstop
  by_contra hne
  rw [not_or, not_and, not_not] at hne
  obtain ⟨hebreak, hconsole⟩ := hne
  by_cases hecall : i = .ecall
  · have h17 : s.ctx.vm.reg 17#5 = 64#32 := hconsole hecall
    subst hecall
    simp only [meaningOf, actEcall, Act.run, Event.perform, h17, if_true] at hd
    cases hstop.trans ((consoleWrite_neverStops s.ia).run hd)
  · cases hstop.trans ((meaningOf_neverStops hecall hebreak s.cfg s.ia).run hd)

/-- Settles O34: ECALL and EBREAK by what each changes of its VM, the others because they change memory or pixels only. -/
theorem onlyTheseReachOutside : Obligations.OnlyTheseReachOutside := by
  intro i s t h
  by_cases hebreak : i = .ebreak
  · subst hebreak
    obtain ⟨-, u, x, hvm⟩ := exec_ebreak_next h
    exact ⟨by simp [hvm], fun _ => rfl, by simp [hvm], by simp [hvm], fun hu => exec_stop hu h⟩
  by_cases hecall : i = .ecall
  · subst hecall
    by_cases h17 : s.reg 17#5 = 64#32
    · by_cases h10 : s.reg 10#5 = 1#32
      · obtain ⟨console, len, u, x, hvm⟩ := exec_ecall_console_next h17 h
        exact ⟨by simp [hvm], by simp [hvm], fun _ => ⟨rfl, h17, h10⟩, by simp [hvm], fun hu => exec_stop hu h⟩
      · obtain ⟨u, x, hvm⟩ := exec_ecall_nothing_next h17 h10 h
        exact ⟨by simp [hvm], by simp [hvm], by simp [hvm], by simp [hvm], fun hu => exec_stop hu h⟩
    · obtain ⟨-, ctr, ring, status, u, x, hvm⟩ := exec_ecall_queued_next h17 h
      exact ⟨fun _ => ⟨rfl, h17⟩, by simp [hvm], by simp [hvm], by simp [hvm], fun hu => exec_stop hu h⟩
  · obtain ⟨mem, pixels, u, x, hvm, hpixels⟩ := exec_vm_of_shape hecall hebreak h
    exact ⟨by simp [hvm], by simp [hvm], by simp [hvm], fun hne => hpixels.resolve_left fun he => hne (by simp [hvm, he]),
      fun hu => exec_stop hu h⟩

end Sys2Proof.Machine
end

section
/-! A tick that nothing stops uses its budget (O49): a unit leaves its loop early only where the tick is stopped, or where
another unit holds the lock and so is still in its own. -/

namespace Sys2Proof.Machine

/-! ### Units about to stop -/

/-- Outside these phases a unit is not about to stop. -/
theorem ExecUnit.not_stopping {cfg : Config} {y : ExecUnit}
    (h : y.phase = .top ∨ y.phase = .acquire ∨ y.phase = .locked ∨ y.phase = .fetch ∨ y.phase = .left) :
    ¬ y.stopping cfg := by
  rcases h with h | h | h | h | h <;> simp [stopping, h]

/-- A unit inside its instruction is about to stop only where that is all that is left of it. -/
theorem ExecUnit.stopping_of_run {cfg : Config} {y : ExecUnit} (hp : y.phase = .run) (h : y.stopping cfg) :
    ∃ next, y.rest cfg = .ret next true := by
  rcases h with ⟨hq, -⟩ | ⟨-, h⟩
  · simp [hp] at hq
  · exact h

/-- A unit past its instruction is about to stop if the instruction says so. -/
theorem ExecUnit.stopping_iff {cfg : Config} {y : ExecUnit}
    (hp : y.phase = .commit ∨ y.phase = .count ∨ y.phase = .profile ∨ y.phase = .guard) :
    y.stopping cfg ↔ y.stop = true := by
  refine ⟨fun h => ?_, fun h => .inl ⟨hp, h⟩⟩
  rcases h with ⟨-, h⟩ | ⟨hr, -⟩
  · exact h
  · simp [hr] at hp

/-- An instruction just fetched is not at its end. -/
theorem ExecUnit.not_stopping_of_fetched {cfg : Config} {y : ExecUnit} (hp : y.phase = .run) (hgot : y.got = []) :
    ¬ y.stopping cfg := fun h => by
  obtain ⟨next, hr⟩ := stopping_of_run hp h
  have hs := meaningOf_stopsAfter (decodeWord cfg.fpCodes y.word) cfg y.ia
  rw [rest, hgot, Act.after] at hr
  rw [hr] at hs
  cases hs rfl

/-- The access before a stop has stopped the tick (R283, R285). -/
theorem ExecUnit.stopped_of_complete {cfg : Config} {x : ExecUnit} {e : Event} {k : Word → Act} {c d : Ctx} {n n' : Nat}
    {v : Word} (hp : x.phase = .run) (hr : x.rest cfg = .op e k)
    (ha : accessEvent cfg e c x.part n = .ok (.complete v, d, n'))
    (hs : (x.progress (.complete v)).stopping cfg) : d.vm.stopped := by
  obtain ⟨next, hret⟩ := stopping_of_run (y := x.progress (.complete v)) hp hs
  obtain ⟨before, hafter⟩ := (meaningOf_stopsAfter (decodeWord cfg.fpCodes x.word) cfg x.ia).after x.got
  rw [show (meaningOf (decodeWord cfg.fpCodes x.word) cfg x.ia).after x.got = .op e k from hr] at hafter
  have hk := hafter v
  rw [← rest_complete hr v, hret] at hk
  have he : e.stopsTick = true := hk rfl
  obtain ⟨w, hw, -, -⟩ := accessEvent_whole ha (by rintro a n rfl; cases he) (by rintro a n v rfl; cases he)
    (by rintro rfl; cases he)
  exact Event.perform_stopped he hw

/-! ### One unit put in -/

/-- Another unit than this one is in its loop. -/
def VM.OtherAlive (vm : VM) (u : Nat) : Prop := ∃ z ∈ vm.tick.units, z ≠ vm.unit u ∧ z.phase ≠ .left

theorem VM.OtherAlive.setUnit {vm : VM} {u : Nat} (h : vm.OtherAlive u) (y : ExecUnit) :
    ∃ z ∈ (vm.setUnit u y).tick.units, z.phase ≠ .left := by
  obtain ⟨z, hz, hne, hp⟩ := h
  obtain ⟨w, hw, rfl⟩ := List.mem_iff_getElem.1 hz
  have hwu : u ≠ w := by rintro rfl; exact hne (by simp [VM.unit, hw])
  refine ⟨_, ?_, hp⟩
  rw [VM.setUnit_units, ← List.getElem_set_ne hwu (a := y) (by simpa using hw)]
  exact List.getElem_mem _

theorem VM.Progress.setUnit {cfg : Config} {vm vm' : VM} {u : Nat} {y : ExecUnit} (h : vm.Progress cfg)
    (hu : u < vm.tick.units.length) (hunits : vm'.tick.units = vm.tick.units) (hstop : vm.stopped → vm'.stopped)
    (halive : ¬ vm'.stopped → vm'.tick.executed < vm'.tick.budget.toNat → y.phase ≠ .left ∨ vm.OtherAlive u)
    (hy : y.stopping cfg → vm'.stopped)
    (haborts : vm'.tick.abortFlag = true → guardFactor * vm'.tick.budget.toNat < vm'.tick.executed) :
    (vm'.setUnit u y).Progress cfg where
  alive hs hb := by
    rcases halive hs hb with hp | ho
    · exact ⟨y, List.mem_set (hunits ▸ hu) y, hp⟩
    · have := ho.setUnit y
      rwa [VM.setUnit_units, ← hunits] at this
  stops := VM.forall_setUnit (P := fun x => x.stopping cfg → vm'.stopped)
    (fun x hx hs => hstop (h.stops x (hunits ▸ hx) hs)) hy
  aborts := haborts

/-- R304: where the lock is held, the unit under it is in its loop. -/
theorem VM.LockExclusive.otherAlive {vm : VM} (h : vm.LockExclusive) (hl : vm.tick.lock = true) {u : Nat}
    (hp : (vm.unit u).phase ≠ .locked) : vm.OtherAlive u := by
  have hpos : 0 < vm.countUnits Phase.holdsLock := by rw [h, hl]; decide
  obtain ⟨z, hz, hlock⟩ := List.countP_pos_iff.1 hpos
  have hzp : z.phase = .locked := by
    cases hq : z.phase <;> simp [hq, Phase.holdsLock] at hlock ⊢
  exact ⟨z, hz, fun e => hp (e ▸ hzp), by rw [hzp]; decide⟩

/-! ### The lines of the loop -/

/-- R303, R312: below the budget the test at the top fails only in a stopped tick. -/
theorem VM.Progress.stopped_of_not_mayBegin {cfg : Config} {vm : VM} (h : vm.Progress cfg) (hb : vm.mayBegin = false)
    (hlt : vm.tick.executed < vm.tick.budget.toNat) : vm.stopped := by
  rcases VM.mayBegin_eq_false_iff.1 hb with hf | ha | hs | he
  · exact .inl hf
  · have := h.aborts ha
    simp only [guardFactor] at this
    omega
  · exact .inr hs
  · omega

theorem UnitMove.progress {cfg : Config} (hn : cfg.nUnits ≠ 1) {vm vm' : VM} {u : Nat}
    (hm : UnitMove cfg vm (vm.unit u) u vm') (hu : u < vm.tick.units.length) (hl : vm.LockExclusive)
    (h : vm.Progress cfg) : vm'.Progress cfg := by
  have hx : (vm.unit u).stopping cfg → vm.stopped := h.stops _ (vm.unit_mem hu)
  -- a unit sent to a line where none is about to stop
  have idle : ∀ {y : ExecUnit},
      (y.phase = .top ∨ y.phase = .acquire ∨ y.phase = .locked ∨ y.phase = .fetch ∨ y.phase = .left) →
      y.stopping cfg → vm.stopped := fun hp hy => absurd hy (ExecUnit.not_stopping hp)
  -- the instruction is over, and its unit is about to stop if it was
  have past : ∀ {y : ExecUnit},
      ((vm.unit u).phase = .commit ∨ (vm.unit u).phase = .count ∨ (vm.unit u).phase = .profile ∨
        (vm.unit u).phase = .guard) →
      (y.phase = .commit ∨ y.phase = .count ∨ y.phase = .profile ∨ y.phase = .guard) → y.stop = (vm.unit u).stop →
      y.stopping cfg → vm.stopped := fun hp hq hs hy =>
    hx ((ExecUnit.stopping_iff hp).2 (hs ▸ (ExecUnit.stopping_iff hq).1 hy))
  cases hm
  case begins | takesLock | claims | repeats =>
    exact h.setUnit hu rfl id (fun _ _ => .inl (by simp)) (idle (by simp)) h.aborts
  case ends hp hb =>
    exact h.setUnit hu rfl id (fun hs hlt => absurd (h.stopped_of_not_mayBegin hb hlt) hs)
      (idle (by simp)) h.aborts
  case waits hp hheld hr =>
    exact h.setUnit hu rfl id (fun _ _ => .inl (by simp [hp])) (idle (by simp [hp])) h.aborts
  case abandons hp hheld hr =>
    exact h.setUnit hu rfl id (fun _ _ => .inr (hl.otherAlive hheld (by rw [hp]; decide)))
      (idle (by simp)) h.aborts
  case sentinel hp hpc =>
    have hs : ((vm.setLock false).raiseHalt).stopped := .inl rfl
    exact h.setUnit hu rfl (fun _ => hs) (fun hns => absurd hs hns) (fun _ => hs) h.aborts
  case fetches w hp hw =>
    exact h.setUnit hu rfl id (fun _ _ => .inl (by simp))
      (fun hy => absurd hy (ExecUnit.not_stopping_of_fetched rfl rfl)) h.aborts
  case returns next stop hp hr =>
    refine h.setUnit hu rfl id (fun _ _ => .inl (by simp)) (fun hy => ?_) h.aborts
    obtain rfl : stop = true := (ExecUnit.stopping_iff (.inl rfl)).1 hy
    exact hx (.inr ⟨hp, next, hr⟩)
  case completes e k c d n n' v hp hc hr ha =>
    subst hc
    have hk := accessEvent_kept ha
    exact h.setUnit hu hk.units hk.stopped (fun _ _ => .inl (by simp [hp]))
      (fun hy => ExecUnit.stopped_of_complete hp hr ha hy) (by rw [hk.tick]; exact h.aborts)
  case advances e k c d n n' p hp hc hr ha =>
    subst hc
    have hk := accessEvent_kept ha
    refine h.setUnit hu hk.units hk.stopped (fun _ _ => .inl (by simp [hp])) (fun hy => ?_)
      (by rw [hk.tick]; exact h.aborts)
    obtain ⟨next, hret⟩ := ExecUnit.stopping_of_run (y := (c.vm.unit u).progress (.partly p)) hp hy
    cases hr.symm.trans hret
  case commits hp =>
    rw [VM.commitNext_of_multi hn]
    exact h.setUnit hu rfl id (fun _ _ => .inl (by simp)) (past (by simp [hp]) (by simp) rfl) h.aborts
  case counts hp =>
    exact h.setUnit hu rfl id (fun _ _ => .inl (by simp)) (past (by simp [hp]) (by simp) rfl)
      fun ha => (h.aborts ha).trans (Nat.lt_succ_self _)
  case profiles hp =>
    exact h.setUnit hu rfl id (fun _ _ => .inl (by simp)) (past (by simp [hp]) (by simp) rfl) h.aborts
  case aborts hp hg =>
    have hover : guardFactor * vm.tick.budget.toNat < vm.tick.executed := of_decide_eq_true hg
    refine h.setUnit hu rfl id (fun _ hlt => ?_) (idle (by simp)) fun _ => hover
    simp only [guardFactor] at hover hlt
    omega
  case stops hp hg hs =>
    have hstopped : vm.stopped := hx ((ExecUnit.stopping_iff (by simp [hp])).2 hs)
    exact h.setUnit hu rfl id (fun hns => absurd hstopped hns) (fun _ => hstopped) h.aborts
  case gone => exact h

/-! ### Every step -/

/-- R5: there is a unit. -/
theorem Config.nUnits_pos_of_ok {cfg : Config} (h : cfg.ok = true) : 0 < cfg.nUnits := by
  simp only [Config.ok, Bool.and_eq_true, decide_eq_true_eq] at h
  tauto

theorem VM.startTick_progress {cfg : Config} (hcfg : cfg.ok = true) (vm : VM) (budget pc : Word) :
    (vm.startTick cfg budget pc).Progress cfg where
  alive _ _ := ⟨.fresh, List.mem_replicate.2 ⟨(Config.nUnits_pos_of_ok hcfg).ne', rfl⟩, by decide⟩
  stops x hx hs := absurd hs (ExecUnit.not_stopping (.inl (by rw [List.eq_of_mem_replicate hx]; rfl)))
  aborts h := by cases h

/-- When a tick ends that nothing stopped, its budget is used (R322, R324). -/
theorem VM.Progress.used_of_left {cfg : Config} {vm : VM} (h : vm.Progress cfg)
    (hleft : ∀ x ∈ vm.tick.units, x.phase = .left) :
    vm.tick.haltFlag = true ∨ vm.vmStatus ≠ .running ∨ vm.tick.budget.toNat ≤ vm.tick.executed := by
  by_contra hne
  simp only [not_or, not_le] at hne
  obtain ⟨hflag, hstatus, hlt⟩ := hne
  obtain ⟨x, hx, hp⟩ := h.alive (fun hs => hs.elim hflag hstatus) hlt
  exact hp (hleft x hx)

theorem VM.finish_vmStatus (cfg : Config) (vm : VM) (u : Nat) : (vm.finish cfg u).vmStatus = vm.vmStatus := by
  obtain ⟨vm', p, he, -, -, -, -, hs, -⟩ := vm.finish_eq cfg u
  rw [he]
  exact hs

/-- An iteration that executes an instruction: the unit leaves only where the guard fires or the instruction has stopped the
tick (R308, R312). -/
theorem State.AtFetch.progress {s r : State} {i : Instr} (h : s.AtFetch) (hx : exec i s.claim = .next r)
    (hw : r.finish.Wf) : r.finish.vm.Progress s.cfg := by
  obtain ⟨y, hy, htick⟩ := h.finish_tick hx
  have hn : r.finish.cfg.nUnits = 1 := (congrArg Config.nUnits (exec_sameOutside hx).cfg).trans h.single
  have hlen : 0 < s.vm.tick.units.length := by obtain ⟨x, xs, hu, -⟩ := h.unit; rw [hu]; exact Nat.succ_pos _
  have hstop : r.unit.stop = true → r.finish.vm.stopped := fun hs => by
    have hclaim : s.claim.vm = (s.vm.setTurn 0).claim 0 := State.withVm_vm ..
    have hstopped : r.vm.stopped := exec_stopped (by rw [hclaim]; exact List.length_set.symm ▸ hlen) hx hs
    unfold VM.stopped
    rwa [htick, State.finish, State.withVm_vm, VM.finish_vmStatus]
  refine ⟨fun hs hlt => ⟨y, ?_, ?_⟩, fun x hx' => ?_, fun ha => ?_⟩
  · rw [htick]
    exact List.mem_set hlen y
  · rw [htick] at hlt
    rw [hy, if_neg]
    · decide
    · rintro (hg | hst)
      · simp only [guardFactor] at hg hlt
        omega
      · exact hs (hstop hst)
  · have hp : x.phase = .top ∨ x.phase = .left := ((hw.vms r.finish.cur).single hn).2 x hx'
    exact fun hst => absurd hst (ExecUnit.not_stopping (by rcases hp with hp | hp <;> simp [hp]))
  · obtain ⟨-, habort, -, -⟩ := VM.mayBegin_iff.1 h.mayBegin
    rw [htick] at ha ⊢
    simpa [habort] using ha

/-- What O49 says of a step of the tick: it goes on and makes progress, or it ends stopped or with its budget used. -/
def KeepsProgress (s t : State) : Prop :=
  t.Progress ∧ (t.running = false →
    s.vm.tick.haltFlag = true ∨ s.vm.vmStatus ≠ .running ∨ s.vm.tick.budget.toNat ≤ s.vm.tick.executed)

theorem keepsProgress_of_runs {s t : State} (hr : t.running = true) (h : t.vm.Progress t.cfg) : KeepsProgress s t :=
  ⟨fun _ => h, fun hr' => by cases hr.symm.trans hr'⟩

theorem keepsProgress_endTick {s : State} (h : s.vm.Progress s.cfg) (hleft : ∀ x ∈ s.vm.tick.units, x.phase = .left) :
    KeepsProgress s s.endTick :=
  ⟨fun hr => (by cases hr), fun _ => h.used_of_left hleft⟩

/-- A step of a single-unit tick. -/
theorem step_single_keepsProgress {s t : State} (hw : s.Wf) (hr : s.running = true) (hn : s.cfg.nUnits = 1)
    (h : s.vm.Progress s.cfg) (hstep : step s = .next t) : KeepsProgress s t := by
  have hlen : 0 < s.vm.tick.units.length := by rw [hw.dispatched hr, hn]; exact Nat.one_pos
  rcases step_single_cases hw hr hn hstep with ⟨rfl, hleft⟩ | ⟨hb, rfl⟩ | rfl | ⟨i, r, hat, hx, rfl⟩
  · exact keepsProgress_endTick h hleft
  · refine keepsProgress_of_runs hr ?_
    rw [State.withVm_vm]
    exact h.setUnit hlen rfl id (fun hns hlt => absurd (h.stopped_of_not_mayBegin hb hlt) hns)
      (fun hy => absurd hy (ExecUnit.not_stopping (by simp))) h.aborts
  · refine keepsProgress_of_runs hr ?_
    rw [State.withVm_vm]
    have hstopped : s.vm.raiseHalt.stopped := .inl rfl
    exact h.setUnit hlen rfl (fun _ => hstopped) (fun hns => absurd hstopped hns) (fun _ => hstopped) h.aborts
  · have hout := exec_sameOutside hx
    have hcfg : r.finish.cfg = s.cfg := hout.cfg
    exact keepsProgress_of_runs (hout.running.trans hr) (hcfg ▸ hat.progress hx (stepKeepsWellFormedness s _ hw hstep))

/-- A step of a multi-unit tick. -/
theorem step_multi_keepsProgress {s t : State} (hw : s.Wf) (hr : s.running = true) (hn : s.cfg.nUnits ≠ 1)
    (hl : s.vm.LockExclusive) (h : s.vm.Progress s.cfg) (hstep : step s = .next t) : KeepsProgress s t := by
  rcases step_cases hstep with ⟨hf, -⟩ | ⟨hf, -⟩ | ⟨-, rfl, ho⟩ | ⟨-, hone, -⟩ | ⟨-, -, u, c, n, hu, -, hc, rfl⟩
  · cases hr.symm.trans hf
  · cases hr.symm.trans hf
  · exact keepsProgress_endTick h (units_left_of_tick_over hw hr ho)
  · exact absurd hone hn
  · have hp := (unitStep_move hc).progress hn hu hl h
    have hvm : ({ s.withCtx { c with vm := c.vm.setTurn (Config.schedule n) } with sched := n + 1 } : State).vm =
        c.vm.setTurn (Config.schedule n) := State.withVm_vm s _
    refine keepsProgress_of_runs hr ?_
    rw [hvm]
    exact ⟨hp.alive, hp.stops, hp.aborts⟩

/-- A step of the host: a tick that runs after it has just started (R301). -/
theorem step_host_progress {s t : State} (hcfg : s.cfg.ok = true) (hr : s.running = false) (hstep : step s = .next t) :
    t.Progress := fun ht => by
  rcases step_cases hstep with ⟨-, -, rfl⟩ | ⟨-, op, rest, -, ho⟩ | ⟨hr', -⟩ | ⟨hr', -⟩ | ⟨hr', -⟩
  · cases hr.symm.trans ht
  · have heffect := hostOp_effect ho
    rcases heffect.tick with ⟨he, -⟩ | ⟨budget, pc, -, he⟩
    · cases hr.symm.trans (he.symm.trans ht)
    · rw [he, heffect.cfg]
      exact VM.startTick_progress hcfg ..
  all_goals cases hr.symm.trans hr'

/-- Settles O49: a tick starts with units in their loops, every iteration and every line of the loop keeps the progress
invariant, and by it a tick whose units have all left was stopped or has used its budget. -/
theorem unstoppedTickUsesItsBudget : Obligations.UnstoppedTickUsesItsBudget := by
  intro s t hw hl hs h
  rcases Bool.eq_false_or_eq_true s.running with hr | hr
  · by_cases hn : s.cfg.nUnits = 1
    · obtain ⟨ht, hend⟩ := step_single_keepsProgress hw hr hn (hs hr) h
      exact ⟨ht, fun _ => hend⟩
    · obtain ⟨ht, hend⟩ := step_multi_keepsProgress hw hr hn (hl s.cur) (hs hr) h
      exact ⟨ht, fun _ => hend⟩
  · exact ⟨step_host_progress hw.config hr h, fun hr' => by cases hr.symm.trans hr'⟩

end Sys2Proof.Machine
end

section
/-! The loop in multi-unit mode (O41). -/

namespace Sys2Proof.Machine

/-- Unit `u` moves, and the unit that moves next is chosen (R325). -/
def State.moveUnit (s : State) (u : Nat) : Host.Outcome State Fault Refusal :=
  match unitStep s.cfg s.ctx s.sched u with
  | .next (c, n) => .next { s.withCtx { c with vm := c.vm.setTurn (Config.schedule n) } with sched := n + 1 }
  | .fault f => .fault f
  | .refused r => .refused r

/-- The unit of its VM that moves next (R325). -/
def VM.chosen (vm : VM) : Nat := vm.liveUnits.getD (vm.tick.turn % vm.liveUnits.length) 0

/-- While a unit is in its loop, a step of a multi-unit tick moves the chosen one. -/
theorem step_eq_moveUnit {s : State} (hr : s.running = true) (hn : s.cfg.nUnits ≠ 1)
    (hpc : s.vm.cpu.pc.toNat % 4 = 0 ∨ s.vm.cpu.pc = s.cfg.haltPc) (hlive : s.vm.liveUnits ≠ []) :
    step s = s.moveUnit s.vm.chosen := by
  have hlegal : legalPc s.cfg s.vm.cpu.pc = true := legalPc_iff.2 hpc
  have hmulti : multiStep s = s.moveUnit s.vm.chosen := by
    unfold multiStep
    split
    · next he => exact absurd he hlive
    · rfl
  simp [step, hr, tickStep, hlegal, hn, hmulti]

/-- The chosen unit is in its loop. -/
theorem VM.chosen_mem {vm : VM} (h : vm.liveUnits ≠ []) : vm.chosen ∈ vm.liveUnits := by
  have hlt := Nat.mod_lt vm.tick.turn (List.length_pos_iff.2 h)
  rw [VM.chosen, List.getD_eq_getElem _ _ hlt]
  exact List.getElem_mem hlt

/-- Every unit in its loop can be the chosen one. -/
theorem VM.chosen_setTurn {vm : VM} {u : Nat} (h : u ∈ vm.liveUnits) :
    (vm.setTurn (vm.liveUnits.idxOf u)).chosen = u := by
  have hlt := List.idxOf_lt_length_of_mem h
  show vm.liveUnits.getD (vm.liveUnits.idxOf u % vm.liveUnits.length) 0 = u
  rw [Nat.mod_eq_of_lt hlt, List.getD_eq_getElem _ _ hlt, List.getElem_idxOf hlt]

/-- Settles O41: the step moves the chosen unit, which can be any unit in its loop, and each line is the arm of `unitStep`
that the unit's phase names. -/
theorem multiUnitLoop : Obligations.MultiUnitLoop := by
  refine ⟨fun s hr hn => ?_, fun cfg c n u hu hn => ?_⟩
  · refine ⟨fun hillegal => ?_, fun hpc ⟨u, hu⟩ => ?_, fun hpc u hu => ?_⟩
    · exact step_illegalPc hr (Bool.eq_false_of_not_eq_true fun h => hillegal (legalPc_iff.1 h))
    · have hlive := List.ne_nil_of_mem ((s.vm.mem_liveUnits u).2 hu)
      exact ⟨s.vm.chosen, (s.vm.mem_liveUnits _).1 (VM.chosen_mem hlive), step_eq_moveUnit hr hn hpc hlive⟩
    · have hmem : u ∈ s.vm.liveUnits := (s.vm.mem_liveUnits u).2 hu
      refine ⟨s.vm.liveUnits.idxOf u, ?_⟩
      have hvm := s.withVm_vm (s.vm.setTurn (s.vm.liveUnits.idxOf u))
      have hstep := step_eq_moveUnit (s := s.withVm (s.vm.setTurn (s.vm.liveUnits.idxOf u))) hr hn
        (by rw [hvm]; exact hpc) (by rw [hvm]; exact List.ne_nil_of_mem hmem)
      rw [hvm, VM.chosen_setTurn hmem] at hstep
      exact hstep
  · dsimp only
    refine ⟨fun hp => ?_, fun hp hl => ?_, fun hp hl => ?_, fun hp hpc => ?_, fun hp hpc => ?_, fun hp w hw => ?_,
      fun hp r hr => ?_, fun hp e k hr => ?_, fun hp pc stop hr => ?_, fun hp => ?_, fun hp => ?_, fun hp => ?_,
      fun hp hg => ?_, fun hp hg => ?_⟩
    all_goals simp only [unitStep, hp]
    -- the test at the top (R303)
    · simp only [← VM.mayBegin_iff]
      split <;> rfl
    -- the free lock, and a failed attempt (R304)
    · simp only [VM.attemptLock, hl]
      rfl
    · simp only [VM.attemptLock, hl, if_true]
      split <;> simp [hp]
    -- the sentinel and the claim (R305, R306)
    · simp only [lockedStep, hpc, if_true]
      rfl
    · simp only [lockedStep, hpc, if_false]
      rfl
    -- the fetch, with and without a word (R307, U1)
    · simp only [fetchStep, fetchInstr, hw]
      exact ⟨fun hd => by simp [hd], fun hd => by simp [hd]⟩
    · simp only [fetchStep, fetchInstr, hr]
    -- one access, and the end of the accesses (R307)
    · unfold ExecUnit.rest at hr
      simp only [accessStep, hr]
      rcases accessEvent cfg e c (c.vm.unit u).part n with r | ⟨v | p, d, m⟩
      · rfl
      · simp only [hp]
      · simp only [hp]
    · unfold ExecUnit.rest at hr
      simp only [accessStep, hr]
    -- no commit, the count and the profile record (R309 to R311)
    · rw [VM.commitNext_of_multi hn]
      rfl
    · rfl
    · rfl
    -- the guard, and the end of the iteration (R312, R308)
    · have hfires : c.vm.guardFires = true := decide_eq_true hg
      simp only [VM.endIteration, hfires, if_true]
      rfl
    · have hquiet : c.vm.guardFires = false := decide_eq_false (Nat.not_lt.2 hg)
      simp only [VM.endIteration, hquiet, Bool.false_eq_true, if_false]
      split <;> rfl

end Sys2Proof.Machine
end

section
/-! The start and the end of a tick (O39, O38), and the bound on a single-unit tick (O51). -/

namespace Sys2Proof.Machine

/-! ### Start and end -/

/-- When every unit has left its loop, the step from a PC that a tick may have ends the tick (R316, R324). -/
theorem step_eq_endTick {s : State} (hr : s.running = true)
    (hleft : ∀ x ∈ s.vm.tick.units, x.phase = .left)
    (hpc : s.vm.cpu.pc.toNat % 4 = 0 ∨ s.vm.cpu.pc = s.cfg.haltPc) : step s = .next s.endTick := by
  have hlegal : legalPc s.cfg s.vm.cpu.pc = true := legalPc_iff.2 hpc
  have hlive : s.vm.liveUnits = [] := List.eq_nil_iff_forall_not_mem.2 fun u hu => by
    obtain ⟨hlt, hp⟩ := (s.vm.mem_liveUnits u).1 hu
    exact hp (hleft _ (s.vm.unit_mem hlt))
  have hsingle : singleStep s = .next s.endTick := by
    unfold singleStep
    split
    · rfl
    · next x xs hu => exact if_pos (hleft x (by rw [hu]; exact List.mem_cons_self))
  have hmulti : multiStep s = .next s.endTick := by
    unfold multiStep
    split
    · rfl
    · next hne => exact absurd hlive hne
  simp [step, hr, tickStep, hlegal, hsingle, hmulti]

/-- Settles O38: the step is the end of the tick, which writes what R318 and R319 say. -/
theorem tickEndReconcilesAndPublishes : Obligations.TickEndReconcilesAndPublishes := by
  intro s hr _ hleft hpc
  have hvm : s.endTick.vm = s.vm.endTick := State.withVm_vm s _
  refine ⟨s.endTick, step_eq_endTick hr hleft hpc, rfl, ?_⟩
  rw [hvm]
  refine ⟨rfl, rfl, rfl, fun hh => ?_, fun hh => ?_, rfl, rfl⟩
  · simp [VM.endTick, hh]
  · simp [VM.endTick, hh]

/-- R301: the start of a tick, refused where its resume PC is none a tick may have. -/
theorem beginTick_running {s : State} {v : VmId} (hrun : (s.vmAt v).vmStatus = .running) (budget pc : Word) :
    beginTick s v budget pc = if legalPc s.cfg pc = true then
      .next { s.withVmAt v ((s.vmAt v).startTick s.cfg budget pc) with running := true, cur := v }
    else .refused .badResumePc := by
  unfold beginTick
  rw [if_neg (not_not.2 hrun)]
  cases legalPc s.cfg pc <;> rfl

/-- Settles O39: the step is the host's request, which starts the tick or is refused by its resume PC. -/
theorem tickStart : Obligations.TickStart := by
  intro s v budget pc rest hr hi hrun
  have hstep := (step_hostOp hr hi).trans (beginTick_running (s := { s with hostIn := rest }) hrun budget pc)
  have hvms := ({ s with hostIn := rest } : State).withVmAt_vms v ((s.vms[v]).startTick s.cfg budget pc)
  refine ⟨fun hillegal => hstep.trans (if_neg fun h => hillegal (legalPc_iff.1 h)), fun hlegal => ?_⟩
  obtain ⟨t, ht, hrunning, hcur, hin, hvm, hothers⟩ : ∃ t, step s = .next t ∧ t.running = true ∧ t.cur = v ∧
      t.hostIn = rest ∧ t.vm = (s.vms[v]).startTick s.cfg budget pc ∧ ∀ w : VmId, w ≠ v → t.vms[w] = s.vms[w] :=
    ⟨_, hstep.trans (if_pos (legalPc_iff.2 hlegal)), rfl, rfl, rfl, (hvms v).trans (if_pos rfl),
      fun w hw => (hvms w).trans (if_neg hw)⟩
  refine ⟨t, ht, hrunning, hcur, hin, ?_⟩
  rw [hvm]
  exact ⟨rfl, rfl, rfl, rfl, rfl, rfl, List.length_replicate, fun x hx => by rw [List.eq_of_mem_replicate hx]; rfl, rfl,
    hothers⟩

/-! ### The bound -/

/-- After some number of steps that is at most `n` the tick is over, unless the machine has stopped. -/
def State.EndsWithin (s : State) (n : Nat) : Prop := ∃ k ≤ n, ∀ t, core.run k s = .next t → t.running = false

theorem State.EndsWithin.mono {s : State} {n m : Nat} (h : s.EndsWithin n) (hnm : n ≤ m) : s.EndsWithin m := by
  obtain ⟨k, hk, hs⟩ := h
  exact ⟨k, hk.trans hnm, hs⟩

theorem State.endsWithin_of_not_running {s : State} (h : s.running = false) : s.EndsWithin 0 :=
  ⟨0, le_rfl, fun t ht => by cases ht; exact h⟩

/-- One step more. -/
theorem State.endsWithin_succ {s : State} {n : Nat} (h : ∀ t, step s = .next t → t.EndsWithin n) : s.EndsWithin (n + 1) := by
  cases hs : step s with
  | next t =>
    obtain ⟨k, hk, hend⟩ := h t hs
    refine ⟨k + 1, Nat.succ_le_succ hk, fun r hr => hend r ?_⟩
    simpa only [Host.Core.run, core, hs] using hr
  | fault f => exact ⟨1, Nat.le_add_left 1 n, fun r hr => by simp [Host.Core.run, core, hs] at hr⟩
  | refused e => exact ⟨1, Nat.le_add_left 1 n, fun r hr => by simp [Host.Core.run, core, hs] at hr⟩

/-- Where every unit has left, one step is enough. -/
theorem State.endsWithin_of_left {s : State} (hr : s.running = true) (hleft : ∀ x ∈ s.vm.tick.units, x.phase = .left) :
    s.EndsWithin 1 :=
  endsWithin_succ fun t ht => by
    obtain rfl : s.endTick = t := by
      rw [step_eq_endTick hr hleft (step_legalPc hr ht)] at ht
      cases ht; rfl
    exact endsWithin_of_not_running rfl

/-- Where the only unit has just been sent out of its loop, one step more is enough. -/
theorem State.endsWithin_of_goto_left {s : State} (hr : s.running = true) {vm : VM} (hlen : vm.tick.units.length ≤ 1) :
    (s.withVm (vm.goto 0 .left)).EndsWithin 1 :=
  endsWithin_of_left hr fun x hx => by
    rw [withVm_vm] at hx
    rw [eq_of_mem_set_zero hlen hx]

/-- Settles O51, by induction on what is left of the budget: an iteration takes one instruction of it, or the unit leaves and
the next step ends the tick. -/
theorem singleUnitTickEnds : Obligations.SingleUnitTickEnds := by
  intro s hw hr hn
  show s.EndsWithin (s.vm.tick.budget.toNat - s.vm.tick.executed + 2)
  generalize hm : s.vm.tick.budget.toNat - s.vm.tick.executed = m
  induction m using Nat.strong_induction_on generalizing s with
  | h m ih =>
    refine State.endsWithin_succ fun t h => ?_
    have hlen : s.vm.tick.units.length ≤ 1 := hn ▸ (hw.vms s.cur).unitCount
    rcases step_single_cases hw hr hn h with ⟨rfl, -⟩ | ⟨-, rfl⟩ | rfl | ⟨i, r, hat, hx, rfl⟩
    · exact (State.endsWithin_of_not_running rfl).mono (Nat.zero_le _)
    · exact (State.endsWithin_of_goto_left hr hlen).mono (Nat.le_add_left ..)
    · exact (State.endsWithin_of_goto_left (vm := s.vm.raiseHalt) hr hlen).mono (Nat.le_add_left ..)
    · obtain ⟨y, -, htick⟩ := hat.finish_tick hx
      have hlt := VM.executed_lt_of_mayBegin hat.mayBegin
      have hout := exec_sameOutside hx
      have hless : r.finish.vm.tick.budget.toNat - r.finish.vm.tick.executed + 1 = m := by
        rw [htick]
        simp only
        omega
      have hwr := stepKeepsWellFormedness s _ hw h
      have hone : r.finish.cfg.nUnits = 1 := (congrArg Config.nUnits hout.cfg).trans hn
      exact (ih _ (by omega) _ hwr (hout.running.trans hr) hone rfl).mono (by omega)

end Sys2Proof.Machine
end

section
/-! The memory-protection validator (O54, O55, O56). -/

namespace Sys2Proof.Machine

/-! ### The checks, said over bytes -/

theorem outOfBounds_iff {cfg : Config} {q : ProtRequest} :
    outOfBounds cfg q = true ↔ cfg.addrLimit < q.address.toNat + q.size.toNat := decide_eq_true_iff

/-- A region matches a request when some byte lies in both (R345): where they meet, the greater of the two first bytes does. -/
theorem Region.matches_iff {r : Region} {q : ProtRequest} :
    r.matches q = true ↔ ∃ b : Nat, q.address.toNat ≤ b ∧ b < q.address.toNat + q.size.toNat ∧
      r.origin.toNat ≤ b ∧ b < r.origin.toNat + r.extent.toNat := by
  simp only [Region.matches, Bool.and_eq_true, decide_eq_true_eq]
  constructor
  · intro h
    exact ⟨max q.address.toNat r.origin.toNat, by omega⟩
  · rintro ⟨b, hb⟩
    omega

theorem Region.deniesWrite_iff {cfg : Config} {r : Region} {q : ProtRequest} :
    r.deniesWrite cfg q = true ↔ r.matches q = true ∧
      ((q.kind = .write ∧ r.flags.readOnly = true) ∨
        ((q.kind = .write ∨ cfg.kernelCheckAll = true) ∧ r.flags.kernel = true ∧ q.requester ≠ 0#32)) := by
  simp only [deniesWrite, Bool.and_eq_true, Bool.or_eq_true, decide_eq_true_eq, and_assoc]

theorem Region.deniesRequester_iff {r : Region} {q : ProtRequest} :
    r.deniesRequester q = true ↔ r.matches q = true ∧ r.flags.isolated = true ∧ q.requester ≠ r.owner := by
  simp only [deniesRequester, Bool.and_eq_true, decide_eq_true_eq, and_assoc]

/-! ### The class of a request -/

/-- R348: the first check that rejects gives the class. -/
theorem classify_classes (cfg : Config) (table : List Region) (q : ProtRequest) :
    let beyond := outOfBounds cfg q = true
    let unwritable := ∃ r ∈ table, r.deniesWrite cfg q = true
    let foreign := ∃ r ∈ table, r.deniesRequester q = true
    (classify cfg table q = .outOfBounds ↔ beyond) ∧
    (classify cfg table q = .readOnly ↔ ¬ beyond ∧ unwritable) ∧
    (classify cfg table q = .isolation ↔ ¬ beyond ∧ ¬ unwritable ∧ foreign) ∧
    (classify cfg table q = .allowed ↔ ¬ beyond ∧ ¬ unwritable ∧ ¬ foreign) := by
  simp only [classify, ← List.any_eq_true]
  split
  · next hb => simp [hb]
  · next hb =>
    split
    · next hw => simp [hb, hw]
    · next hw => split <;> next hf => simp [hb, hw, hf]

/-- Settles O54: each check says what it rejects over the bytes of the request, and the first that rejects gives the class. -/
theorem classOfARequest : Obligations.ClassOfARequest := by
  intro cfg table q
  simpa only [outOfBounds_iff, Region.deniesWrite_iff, Region.deniesRequester_iff, Region.matches_iff]
    using classify_classes cfg table q

/-- Of the configuration a check reads ADDR_LIMIT and kernel_check_kinds only. -/
theorem classify_congr {cfg cfg' : Config} (hl : cfg.addrLimit = cfg'.addrLimit)
    (hk : cfg.kernelCheckAll = cfg'.kernelCheckAll) : classify cfg = classify cfg' := by
  unfold classify outOfBounds Region.deniesWrite
  rw [hl, hk]

/-- Settles O56: the configuration after reset has the ADDR_LIMIT and the kernel_check_kinds of the worked cases, so they are
evaluated there. -/
theorem validatorWorkedCases : Obligations.ValidatorWorkedCases := by
  intro cfg hl hk
  rw [classify_congr (cfg' := Config.default) hl hk]
  decide

/-! ### The counters -/

/-- A check is counted once, and once in its class. -/
theorem ProtCounters.count_eq (c : ProtCounters) (r : ProtResult) :
    c.count r =
      { nChecks := c.nChecks + 1#32
        nAllowed := c.nAllowed + (if r = .allowed then 1#32 else 0#32)
        nReadOnly := c.nReadOnly + (if r = .readOnly then 1#32 else 0#32)
        nOutOfBounds := c.nOutOfBounds + (if r = .outOfBounds then 1#32 else 0#32)
        nIsolation := c.nIsolation + (if r = .isolation then 1#32 else 0#32) } := by
  cases r <;> simp [count]

/-- Settles O55: the step is the operation `checkRequest`. -/
theorem checkCountsAndAnswers : Obligations.CheckCountsAndAnswers := by
  intro s q rest hr hi r
  rw [step_hostOp hr hi, ← ProtCounters.count_eq]
  rfl

end Sys2Proof.Machine
end

section
/-! The profiler's record in every slot (O57). -/

namespace Sys2Proof.Machine

theorem eq_profSlot_iff {k : Fin 256} {a : Word} : k = profSlot a ↔ k.val = a.toNat % 256 := Fin.ext_iff

/-- Settles O57: the slot of the address holds the entry's record, and every other slot is as it was. -/
theorem profilerRecord : Obligations.ProfilerRecord := by
  intro vm a k
  split
  · next hk =>
    obtain rfl := eq_profSlot_iff.2 hk
    exact vm.profRecord_slot a
  · next hk => exact vm.profRecord_other (mt eq_profSlot_iff.1 hk)

end Sys2Proof.Machine
end

section
/-! No instruction traps (O33): what refuses an instruction is an access to memory, so an instruction that makes none
completes in every state. -/

namespace Sys2Proof.Machine

/-! ### What an access is refused for (R64, R65, R67, log entry 8) -/

/-- The reasons for which an access to memory is refused. -/
def accessRefusals : List Refusal := [.outOfRange, .windowStore, .misalignedAccess]

/-- The access reads or writes memory as data. -/
def Event.isDataAccess : Event → Bool
  | .load _ _ | .store _ _ _ => true
  | _ => false

theorem readKind_refusal {cfg : Config} {a : Nat} {n : Size} {r : Refusal} (h : readKind cfg a n = .refused r) :
    r ∈ accessRefusals := by
  unfold readKind at h
  split_ifs at h <;> cases h <;> decide

theorem writeKind_refusal {cfg : Config} {a : Nat} {n : Size} {r : Refusal} (h : writeKind cfg a n = .refused r) :
    r ∈ accessRefusals := by
  unfold writeKind at h
  split_ifs at h <;> cases h <;> decide

theorem memRead_refusal {cfg : Config} {c : Ctx} {a : Word} {n : Size} {r : Refusal}
    (h : memRead cfg c a n = .error r) : r ∈ accessRefusals := by
  cases hk : readKind cfg a.toNat n with
  | plain => cases (memRead_plain hk c).symm.trans h
  | window => cases (memRead_window hk c).symm.trans h
  | refused q => cases (memRead_refused hk c).symm.trans h; exact readKind_refusal hk

theorem memWrite_refusal {cfg : Config} {c : Ctx} {a v : Word} {n : Size} {r : Refusal}
    (h : memWrite cfg c a n v = .error r) : r ∈ accessRefusals := by
  cases hk : writeKind cfg a.toNat n with
  | plain => cases (memWrite_plain hk c v).symm.trans h
  | pixel => cases (memWrite_pixel hk c v).symm.trans h
  | refused q => cases (memWrite_refused hk c v).symm.trans h; exact writeKind_refusal hk

/-- Only an access to memory is refused. -/
theorem Event.perform_refusal {cfg : Config} {e : Event} {c : Ctx} {r : Refusal} (h : e.perform cfg c = .error r) :
    e.isDataAccess = true ∧ r ∈ accessRefusals := by
  cases e
  case load => exact ⟨rfl, memRead_refusal h⟩
  case store =>
    simp only [Event.perform] at h
    split at h
    · cases h
    · next hw => cases h; exact ⟨rfl, memWrite_refusal hw⟩
  all_goals cases h

/-! ### Accesses that do not reach memory -/

/-- However these accesses are answered, none of them reads or writes memory. -/
def Act.NoDataAccess : Act → Prop
  | .ret _ _ => True
  | .op e k => e.isDataAccess = false ∧ ∀ v, (k v).NoDataAccess

/-- Accesses that are refused are refused for one of the reasons, and some of them reach memory. -/
theorem Act.run_refusal {cfg : Config} {a : Act} {c : Ctx} {r : Refusal} (h : a.run cfg c = .error r) :
    r ∈ accessRefusals ∧ ¬ a.NoDataAccess := by
  induction a generalizing c with
  | ret next stop => cases h
  | op e k ih =>
    simp only [Act.run] at h
    split at h
    · next v c' _ => exact ⟨(ih v h).1, fun hn => (ih v h).2 (hn.2 v)⟩
    · next hp =>
      cases h
      obtain ⟨he, hr⟩ := Event.perform_refusal hp
      exact ⟨hr, fun hn => by cases he.symm.trans hn.1⟩

theorem fallThrough_noDataAccess (pc : Word) : (fallThrough pc).NoDataAccess := trivial

theorem writeBack_noDataAccess (rd : RegIx) (v pc : Word) : (writeBack rd v pc).NoDataAccess := ⟨rfl, fun _ => trivial⟩

theorem readReg_noDataAccess {r : RegIx} {k : Word → Act} (hk : ∀ v, (k v).NoDataAccess) :
    (Act.op (.readReg r) k).NoDataAccess := ⟨rfl, hk⟩

theorem readBoth_noDataAccess {r q : RegIx} {k : Word → Word → Act} (hk : ∀ a b, (k a b).NoDataAccess) :
    (readBoth r q k).NoDataAccess := by
  refine ⟨rfl, fun n => ?_⟩
  beta_reduce
  split
  · exact readReg_noDataAccess fun b => readReg_noDataAccess fun a => hk a b
  · exact readReg_noDataAccess fun a => readReg_noDataAccess fun b => hk a b

/-- No instruction but a load, a store or ECALL reaches memory. -/
theorem meaningOf_noDataAccess {i : Instr} (hi : shapeOf i = .register ∨ shapeOf i = .ebreak) (cfg : Config) (pc : Word) :
    (meaningOf i cfg pc).NoDataAccess := by
  cases i
  case lb | lh | lw | lbu | lhu | sb | sh | sw | ecall => simp [shapeOf] at hi
  case fence | fenceI | csrrw | csrrs | csrrc | csrrwi | csrrsi | csrrci | unknown => exact fallThrough_noDataAccess pc
  case ebreak => exact ⟨rfl, fun _ => trivial⟩
  case lui | auipc | jal => exact ⟨rfl, fun _ => trivial⟩
  case jalr => exact readReg_noDataAccess fun _ => ⟨rfl, fun _ => trivial⟩
  case beq | bne | blt | bge | bltu | bgeu => exact readBoth_noDataAccess fun _ _ => trivial
  case addi | slti | sltiu | xori | ori | andi | slli | srli | srai | fsqrt | fcvtSW =>
    exact readReg_noDataAccess fun _ => writeBack_noDataAccess _ _ _
  case add | sub | sll | slt | sltu | xor | srl | sra | or | and | fadd | fsub | fmul | fdiv | fmin | fmax | feq | flt |
    fle => exact readBoth_noDataAccess fun _ _ => writeBack_noDataAccess _ _ _
  case fcvtWS =>
    refine readReg_noDataAccess fun _ => ?_
    split
    · exact writeBack_noDataAccess _ _ _
    · exact ⟨rfl, fun _ => writeBack_noDataAccess _ _ _⟩

/-! ### The instruction (R400) -/

theorem eq_ecall_of_shapeOf {i : Instr} (h : shapeOf i = .ecall) : i = .ecall := by
  cases i
  case ecall => rfl
  all_goals cases h

/-- Of the ECALLs only a console write with descriptor 1 is refused: a queued call and one with another descriptor
complete. -/
theorem exec_ecall_refused {s : State} {r : Refusal} (h : exec .ecall s = .refused r) :
    s.reg 17#5 = 64#32 ∧ s.reg 10#5 = 1#32 := by
  by_cases h17 : s.reg 17#5 = 64#32
  · refine ⟨h17, by_contra fun h10 => ?_⟩
    have hnothing := ecall_nothing_run (cfg := s.cfg) (c := s.ctx) (pc := s.ia) h17 h10
    cases (State.execute_of_ok (m := meaningOf .ecall) hnothing).symm.trans h
  · obtain ⟨t, ht, -⟩ := ecallQueues s h17
    cases ht.symm.trans h

/-- Everything `exec` refuses: accesses that are refused. -/
theorem exec_refused {i : Instr} {s : State} {r : Refusal} (h : exec i s = .refused r) :
    r ∈ accessRefusals ∧ ¬ (meaningOf i s.cfg s.ia).NoDataAccess := by
  rw [exec_eq_execute] at h
  rcases s.execute_cases (meaningOf i) with ⟨d, -, he⟩ | ⟨q, hq, he⟩
  · cases he.symm.trans h
  · cases he.symm.trans h
    exact Act.run_refusal hq

/-- An instruction that is refused is a load, a store or a console write. -/
theorem exec_refused_reaches_memory {i : Instr} {s : State} {r : Refusal} (h : exec i s = .refused r) :
    shapeOf i = .load ∨ shapeOf i = .store ∨ (i = .ecall ∧ s.reg 17#5 = 64#32 ∧ s.reg 10#5 = 1#32) := by
  by_cases hecall : i = .ecall
  · subst hecall
    exact .inr (.inr ⟨rfl, exec_ecall_refused h⟩)
  · cases hi : shapeOf i with
    | load => exact .inl rfl
    | store => exact .inr (.inl rfl)
    | register => exact absurd (meaningOf_noDataAccess (.inl hi) s.cfg s.ia) (exec_refused h).2
    | ebreak => exact absurd (meaningOf_noDataAccess (.inr hi) s.cfg s.ia) (exec_refused h).2
    | ecall => exact absurd (eq_ecall_of_shapeOf hi) hecall

/-- Settles O33: an instruction never faults, and what is refused is an access to memory. -/
theorem noInstructionTraps : Obligations.NoInstructionTraps := by
  intro i s
  cases h : exec i s with
  | next t => exact .inl ⟨t, rfl⟩
  | fault f => exact absurd h (exec_not_fault i s f)
  | refused r => exact .inr ⟨exec_refused_reaches_memory h, r, (exec_refused h).1, rfl⟩

end Sys2Proof.Machine
end
